-- ==== Sys2Proof/Word.lean ====
section
/-! DEFINITION. The two word types of the core (00_scope.md R7): data registers and memory cells are 8 bits, the
program counter and addresses 16 bits. `+` and `-` on them wrap, as R9 and R64 say. -/

namespace Sys2Proof

/-- A `u8`: a data register, a memory cell, an opcode byte (R7). -/
abbrev Byte := BitVec 8

/-- A `u16`: the program counter or an address (R7). -/
abbrev Word := BitVec 16

end Sys2Proof
end

