-- ==== Sys2Proof/Machine/Bytes.lean ====
section
/-! DEFINITION. Joining and splitting a 16-bit value into its two bytes and widening a byte (00_scope.md R9). -/

namespace Sys2Proof

/-- `hi ++ lo`: the 16-bit value `hi * 256 + lo` (R9). -/
def joinBytes (hi lo : Byte) : Word := hi ++ lo

/-- `w[15:8]` (R9). -/
def hiByte (w : Word) : Byte := w.extractLsb' 8 8

/-- `w[7:0]` (R9). -/
def loByte (w : Word) : Byte := w.extractLsb' 0 8

/-- `zext_16(b)` (R9). -/
def zext16 (b : Byte) : Word := b.setWidth 16

/-- `sext_16(b)`: bit 7 copied into bits 15..8 (R9). -/
def sext16 (b : Byte) : Word := b.signExtend 16

end Sys2Proof
end

