-- ==== Sys2Proof/Config.lean ====
section
/-! DEFINITION. The five points the source leaves open, as the named parameters of 00_scope.md R8. Their default values
are `Machine.params` in Sys2Proof/Machine/Ops.lean; every operation that depends on one takes a `Params` argument, so a
claim can be made for every choice. -/

namespace Sys2Proof

/-- `P_RET_CONV` (46_jumps_calls.md R121): what JSR pushes and RTS does with it. -/
inductive RetConv where
  /-- JSR pushes the address of its last byte, RTS adds 1 (the spec's default, 92_eei_decisions.md D10). -/
  | nmos
  /-- JSR pushes the address of the next instruction, RTS uses it unchanged. -/
  | literal
  deriving DecidableEq, Repr

/-- The parameters of 00_scope.md R8, which an implementation fixes. -/
structure Params where
  /-- `P_RET_CONV` (46_jumps_calls.md R121). -/
  retConv : RetConv
  /-- `P_BRK_SKIP` (49_moves_control.md R162): BRK skips a signature byte. -/
  brkSkip : Bool
  /-- `P_INT_SETS_I` (60_exceptions.md R206): interrupt and BRK entry set I. -/
  intSetsI : Bool
  /-- `P_CYCLES` (70_reset_and_hazards.md R226): base cycle count of an assigned opcode. -/
  cycles : Byte → Nat
  /-- `P_ILLEGAL_CYCLES` (70_reset_and_hazards.md R226): base cycle count of an unassigned opcode. -/
  illegalCycles : Byte → Nat

end Sys2Proof
end

