-- ==== Sys2Proof/Syntax.lean ====
section
/-! DEFINITION. The instructions as syntax: the 56 instructions of 30_encoding.md R52 and the stub ILL of R53, each with
its operand form. The thirteen addressing modes of R40 are split by what an instruction does with the operand, so that
each constructor takes a form it can use: a byte it reads, a memory place it writes, a place it reads and writes, a jump
target, a branch offset. Which modes a mnemonic has an opcode for is WellFormed.lean's check (log entry 1). -/

namespace Sys2Proof

/-- The thirteen addressing modes (30_encoding.md R40). -/
inductive Mode where
  | accumulator | implied | immediate
  | zeroPage | zeroPageX | zeroPageY
  | absolute | absoluteX | absoluteY
  | indirect | indirectX | indirectY
  | relative
  deriving DecidableEq, Repr

/-- An operand in memory: the operand bytes of the eight modes that give a data address (30_encoding.md R45, R46). -/
inductive MemOperand where
  | zp (z : Byte)
  | zpX (z : Byte)
  | zpY (z : Byte)
  | abs (a : Word)
  | absX (a : Word)
  | absY (a : Word)
  | indX (z : Byte)
  | indY (z : Byte)
  deriving DecidableEq, Repr

/-- A byte an instruction only reads: the literal of Immediate (R49) or a memory operand. -/
inductive ReadOperand where
  | imm (b : Byte)
  | mem (m : MemOperand)
  deriving DecidableEq, Repr

/-- A place a shift or rotate reads and writes: Accumulator (R49) or a memory operand. -/
inductive RmwOperand where
  | acc
  | mem (m : MemOperand)
  deriving DecidableEq, Repr

/-- The operand of JMP: Absolute (R46) or Indirect (R47), the operand bytes as a 16-bit value. -/
inductive JumpOperand where
  | abs (a : Word)
  | ind (ptr : Word)
  deriving DecidableEq, Repr

/-- The instructions. A branch carries its signed offset byte (R48); ILL carries the unassigned opcode byte (R53). -/
inductive Instr where
  -- 40_arithmetic.md
  | adc (o : ReadOperand) -- R61
  | sbc (o : ReadOperand) -- R62
  -- 41_logic.md
  | and (o : ReadOperand) -- R70
  | ora (o : ReadOperand) -- R71
  | eor (o : ReadOperand) -- R72
  | bit (m : MemOperand) -- R73
  -- 42_shifts.md
  | asl (o : RmwOperand) -- R80
  | lsr (o : RmwOperand) -- R81
  | rol (o : RmwOperand) -- R82
  | ror (o : RmwOperand) -- R83
  -- 43_compare.md
  | cmp (o : ReadOperand) -- R91
  | cpx (o : ReadOperand) -- R92
  | cpy (o : ReadOperand) -- R93
  -- 44_incdec.md
  | inc (m : MemOperand) -- R100
  | dec (m : MemOperand) -- R101
  | inx -- R102
  | iny -- R103
  | dex -- R104
  | dey -- R105
  -- 45_branches.md
  | bcc (off : Byte) -- R111
  | bcs (off : Byte) -- R112
  | beq (off : Byte) -- R113
  | bne (off : Byte) -- R114
  | bmi (off : Byte) -- R115
  | bpl (off : Byte) -- R116
  | bvc (off : Byte) -- R117
  | bvs (off : Byte) -- R118
  -- 46_jumps_calls.md
  | jmp (o : JumpOperand) -- R120
  | jsr (target : Word) -- R122
  | rts -- R123
  | rti -- R125
  -- 47_stack.md
  | pha -- R130
  | php -- R131
  | pla -- R132
  | plp -- R133
  -- 48_flags.md
  | sec -- R140
  | clc -- R141
  | sei -- R142
  | cli -- R143
  | sed -- R144
  | cld -- R145
  | clv -- R146
  -- 49_moves_control.md
  | lda (o : ReadOperand) -- R150
  | ldx (o : ReadOperand) -- R151
  | ldy (o : ReadOperand) -- R152
  | sta (m : MemOperand) -- R153
  | stx (m : MemOperand) -- R154
  | sty (m : MemOperand) -- R155
  | tax -- R156
  | tay -- R157
  | txa -- R158
  | tya -- R159
  | tsx -- R160
  | txs -- R161
  | brk -- R162
  | nop -- R163
  | ill (op : Byte) -- R164
  deriving DecidableEq, Repr

/-- The addressing mode of a memory operand. -/
def MemOperand.mode : MemOperand → Mode
  | .zp _ => .zeroPage
  | .zpX _ => .zeroPageX
  | .zpY _ => .zeroPageY
  | .abs _ => .absolute
  | .absX _ => .absoluteX
  | .absY _ => .absoluteY
  | .indX _ => .indirectX
  | .indY _ => .indirectY

/-- The addressing mode of a read operand. -/
def ReadOperand.mode : ReadOperand → Mode
  | .imm _ => .immediate
  | .mem m => m.mode

/-- The addressing mode of a read-modify-write operand. -/
def RmwOperand.mode : RmwOperand → Mode
  | .acc => .accumulator
  | .mem m => m.mode

/-- The addressing mode of a jump operand. -/
def JumpOperand.mode : JumpOperand → Mode
  | .abs _ => .absolute
  | .ind _ => .indirect

end Sys2Proof
end

