-- ==== Sys2Proof/WellFormed.lean ====
section
/-! DEFINITION. Which instruction terms the opcode map holds: the mnemonic has an opcode for the operand's addressing
mode (the non-empty cells of 30_encoding.md R52), and ILL carries one of the 105 unassigned opcode bytes (R53). Operand
values are never ill-formed: every byte is a legal operand (R54). -/

namespace Sys2Proof

/-- The 105 unassigned opcode bytes (30_encoding.md R53), one line per high nibble. -/
def unassignedOpcodes : List Byte :=
  [0x02, 0x03, 0x04, 0x07, 0x0B, 0x0C, 0x0F] ++
  [0x12, 0x13, 0x14, 0x17, 0x1A, 0x1B, 0x1C, 0x1F] ++
  [0x22, 0x23, 0x27, 0x2B, 0x2F] ++
  [0x32, 0x33, 0x34, 0x37, 0x3A, 0x3B, 0x3C, 0x3F] ++
  [0x42, 0x43, 0x44, 0x47, 0x4B, 0x4F] ++
  [0x52, 0x53, 0x54, 0x57, 0x5A, 0x5B, 0x5C, 0x5F] ++
  [0x62, 0x63, 0x64, 0x67, 0x6B, 0x6F] ++
  [0x72, 0x73, 0x74, 0x77, 0x7A, 0x7B, 0x7C, 0x7F] ++
  [0x80, 0x82, 0x83, 0x87, 0x89, 0x8B, 0x8F] ++
  [0x92, 0x93, 0x97, 0x9B, 0x9C, 0x9E, 0x9F] ++
  [0xA3, 0xA7, 0xAB, 0xAF] ++
  [0xB2, 0xB3, 0xB7, 0xBB, 0xBF] ++
  [0xC2, 0xC3, 0xC7, 0xCB, 0xCF] ++
  [0xD2, 0xD3, 0xD4, 0xD7, 0xDA, 0xDB, 0xDC, 0xDF] ++
  [0xE2, 0xE3, 0xE7, 0xEB, 0xEF] ++
  [0xF2, 0xF3, 0xF4, 0xF7, 0xFA, 0xFB, 0xFC, 0xFF]

/-- The modes of ADC, SBC, AND, ORA, EOR, CMP and LDA (R52). -/
def aluModes : List Mode :=
  [.immediate, .zeroPage, .zeroPageX, .absolute, .absoluteX, .absoluteY, .indirectX, .indirectY]

/-- The modes of STA (R52): those of LDA but for Immediate. -/
def staModes : List Mode :=
  [.zeroPage, .zeroPageX, .absolute, .absoluteX, .absoluteY, .indirectX, .indirectY]

/-- The modes of ASL, LSR, ROL and ROR (R52). -/
def shiftModes : List Mode := [.accumulator, .zeroPage, .zeroPageX, .absolute, .absoluteX]

/-- The instruction has a cell in R52's table, or is ILL on an unassigned byte (R53). -/
def Instr.wf : Instr → Bool
  | .adc o | .sbc o | .and o | .ora o | .eor o | .cmp o | .lda o => decide (o.mode ∈ aluModes)
  | .bit m => decide (m.mode ∈ [Mode.zeroPage, .absolute])
  | .asl o | .lsr o | .rol o | .ror o => decide (o.mode ∈ shiftModes)
  | .cpx o | .cpy o => decide (o.mode ∈ [Mode.immediate, .zeroPage, .absolute])
  | .inc m | .dec m => decide (m.mode ∈ [Mode.zeroPage, .zeroPageX, .absolute, .absoluteX])
  | .ldx o => decide (o.mode ∈ [Mode.immediate, .zeroPage, .zeroPageY, .absolute, .absoluteY])
  | .ldy o => decide (o.mode ∈ [Mode.immediate, .zeroPage, .zeroPageX, .absolute, .absoluteX])
  | .sta m => decide (m.mode ∈ staModes)
  | .stx m => decide (m.mode ∈ [Mode.zeroPage, .zeroPageY, .absolute])
  | .sty m => decide (m.mode ∈ [Mode.zeroPage, .zeroPageX, .absolute])
  | .ill op => decide (op ∈ unassignedOpcodes)
  | .inx | .iny | .dex | .dey => true
  | .bcc _ | .bcs _ | .beq _ | .bne _ | .bmi _ | .bpl _ | .bvc _ | .bvs _ => true
  | .jmp _ | .jsr _ | .rts | .rti => true
  | .pha | .php | .pla | .plp => true
  | .sec | .clc | .sei | .cli | .sed | .cld | .clv => true
  | .tax | .tay | .txa | .tya | .tsx | .txs => true
  | .brk | .nop => true

end Sys2Proof
end

