-- ==== Sys2Proof/Machine/Cycles.lean ====
section
/-! DEFINITION. The base cycle counts `step()` returns (70_reset_and_hazards.md R225, R226). No state depends on them. -/

namespace Sys2Proof.Machine

/-- The default of `P_CYCLES` (R226), one row per high nibble of the opcode byte and one column per low nibble. An
unassigned opcode's cell is 0 and is never read: its count is `P_ILLEGAL_CYCLES`. -/
def cycleRows : List (List Nat) :=
  [[7, 6, 0, 0, 0, 3, 5, 0, 3, 2, 2, 0, 0, 4, 6, 0],
   [2, 5, 0, 0, 0, 4, 6, 0, 2, 4, 0, 0, 0, 4, 7, 0],
   [6, 6, 0, 0, 3, 3, 5, 0, 4, 2, 2, 0, 4, 4, 6, 0],
   [2, 5, 0, 0, 0, 4, 6, 0, 2, 4, 0, 0, 0, 4, 7, 0]] ++
  [[6, 6, 0, 0, 0, 3, 5, 0, 3, 2, 2, 0, 3, 4, 6, 0],
   [2, 5, 0, 0, 0, 4, 6, 0, 2, 4, 0, 0, 0, 4, 7, 0],
   [6, 6, 0, 0, 0, 3, 5, 0, 4, 2, 2, 0, 5, 4, 6, 0],
   [2, 5, 0, 0, 0, 4, 6, 0, 2, 4, 0, 0, 0, 4, 7, 0]] ++
  [[0, 6, 0, 0, 3, 3, 3, 0, 2, 0, 2, 0, 4, 4, 4, 0],
   [2, 6, 0, 0, 4, 4, 4, 0, 2, 5, 2, 0, 0, 5, 0, 0],
   [2, 6, 2, 0, 3, 3, 3, 0, 2, 2, 2, 0, 4, 4, 4, 0],
   [2, 5, 0, 0, 4, 4, 4, 0, 2, 4, 2, 0, 4, 4, 4, 0]] ++
  [[2, 6, 0, 0, 3, 3, 5, 0, 2, 2, 2, 0, 4, 4, 6, 0],
   [2, 5, 0, 0, 0, 4, 6, 0, 2, 4, 0, 0, 0, 4, 7, 0],
   [2, 6, 0, 0, 3, 3, 5, 0, 2, 2, 2, 0, 4, 4, 6, 0],
   [2, 5, 0, 0, 0, 4, 6, 0, 2, 4, 0, 0, 0, 4, 7, 0]]

/-- The default of `P_CYCLES` at an opcode byte (R226). -/
def defaultCycles (op : Byte) : Nat := (cycleRows.getD (op.toNat / 16) []).getD (op.toNat % 16) 0

/-- The default of `P_ILLEGAL_CYCLES`: 2 for every unassigned opcode (00_scope.md R8, R226). -/
def defaultIllegalCycles (_op : Byte) : Nat := 2

/-- `e.cycles` of an opcode's dispatch entry (30_encoding.md R50). -/
def entryCycles (p : Params) (op : Byte) : Nat :=
  if op ∈ unassignedOpcodes then p.illegalCycles op else p.cycles op

end Sys2Proof.Machine
end

