-- ==== Sys2Proof/Machine/Memory.lean ====
section
/-! DEFINITION. Memory: 65,536 bytes at 0x0000..0xFFFF (20_memory.md R32), held as the list of the addresses whose byte
differs from what power-on leaves there, in rising order. Equal memories are equal lists. -/

namespace Sys2Proof.Machine

/-- The bytes that differ from `Memory.cleared`, as (address, byte) pairs. -/
abbrev Memory := List Host.Cell

/-- What an unlisted address reads as: power-on leaves "memory cleared", 0x00 everywhere (70_reset_and_hazards.md R220). -/
def Memory.cleared : Byte := 0x00

/-- The size of the address space (20_memory.md R32). -/
def Memory.size : Nat := 65536

/-- The canonical form from an address on: strictly rising addresses below the size, no listed byte equal to
`Memory.cleared`. -/
def Memory.wfFrom (lo : Nat) : Memory → Bool
  | [] => true
  | (k, v) :: m => decide (lo ≤ k) && decide (k < Memory.size) && decide (v ≠ Memory.cleared) && Memory.wfFrom (k + 1) m

/-- The canonical form of a memory. -/
def Memory.wf (m : Memory) : Bool := Memory.wfFrom 0 m

/-- The byte at an address. -/
def Memory.byteAt : Memory → Nat → Byte
  | [], _ => Memory.cleared
  | (k, v) :: m, a => if k = a then v else Memory.byteAt m a

/-- Forget what is listed at an address. -/
def Memory.unlist : Memory → Nat → Memory
  | [], _ => []
  | (k, v) :: m, a => if k = a then Memory.unlist m a else (k, v) :: Memory.unlist m a

/-- List a byte at an address, before the first higher address. -/
def Memory.enlist : Memory → Nat → Byte → Memory
  | [], a, v => [(a, v)]
  | (k, w) :: m, a, v => if a < k then (a, v) :: (k, w) :: m else (k, w) :: Memory.enlist m a v

/-- Set the byte at an address; writing `Memory.cleared` unlists the address. -/
def Memory.put (m : Memory) (a : Nat) (v : Byte) : Memory :=
  if v = Memory.cleared then Memory.unlist m a else Memory.enlist (Memory.unlist m a) a v

end Sys2Proof.Machine
end

