-- ==== Sys2Proof/Machine/State.lean ====
section
/-! DEFINITION. The state of the core: exactly the parts of 10_state.md R20, as plain data, its value at reset, and the
reasons a step can stop (there is none on any instruction of this hardware). -/

namespace Sys2Proof.Machine

/-- The CPU state (10_state.md R20): "There is no other architectural state". -/
structure State where
  /-- Accumulator (R22). -/
  a : Byte
  /-- Index register X (R23). -/
  x : Byte
  /-- Index register Y (R23). -/
  y : Byte
  /-- Stack pointer, an offset into page 1 (R25). -/
  sp : Byte
  /-- Status register; all eight bits are stored (R26). -/
  p : Byte
  /-- Program counter: the next unconsumed byte (R24). -/
  pc : Word
  /-- The byte last fetched as an opcode (R30). -/
  opcode : Byte
  /-- The 65,536 bytes of memory (20_memory.md R32). -/
  mem : Memory
  deriving DecidableEq, Repr

/-- The named bits of P (10_state.md R26). -/
inductive Flag where
  | c | z | i | d | b | u | v | n
  deriving DecidableEq, Repr

/-- Power-on, "all fields zeroed and memory cleared" (70_reset_and_hazards.md R220). It is also what the operation
`reset()` (R221) gives on it, since the RESET vector of cleared memory reads 0x0000 (log entry 7). -/
def State.reset : State where
  a := 0x00
  x := 0x00
  y := 0x00
  sp := 0x00
  p := 0x00
  pc := 0x0000
  opcode := 0x00
  mem := []

/-- The faults of a step: none. "No instruction fails at runtime" (60_exceptions.md R200) and every rule is a total
function (00_scope.md R11), so nobody raises one; that is safe, since the spec gives every step a next state. -/
inductive Fault where
  deriving DecidableEq, Repr

/-- The refusals of a step. -/
inductive Refusal where
  /-- An instruction that has no meaning in the model yet. Raised by no arm of `exec`: every constructor has its meaning.
  Safe: it would stop where the hardware goes on. -/
  | notModelled (mnemonic : String)
  deriving DecidableEq, Repr

/-- What an instruction answers. -/
abbrev Result := Host.Outcome State Fault Refusal

end Sys2Proof.Machine
end

