-- ==== Sys2Proof/Machine/Flags.lean ====
section
/-! DEFINITION. The status register's bits and every flag computation of the spec: reading and writing one bit (10_state.md
R26), SetZN (R28), the 9-bit add (40_arithmetic.md R60), comparison (43_compare.md R90), the shifted-out bits
(42_shifts.md R80 to R83) and the status copies that are pushed (47_stack.md R131, 60_exceptions.md R203). -/

namespace Sys2Proof.Machine

/-- The position of a flag in P (10_state.md R26). -/
def Flag.bit : Flag → Nat
  | .c => 0
  | .z => 1
  | .i => 2
  | .d => 3
  | .b => 4
  | .u => 5
  | .v => 6
  | .n => 7

/-- The mask of a flag in P (10_state.md R26). -/
def Flag.mask (f : Flag) : Byte := BitVec.twoPow 8 f.bit

/-- The value of one bit of a status byte. -/
def getFlag (p : Byte) (f : Flag) : Bool := p.getLsbD f.bit

/-- A status byte with one bit replaced and the other seven kept. -/
def putFlag (p : Byte) (f : Flag) (b : Bool) : Byte := if b then p ||| f.mask else p &&& ~~~f.mask

/-- `P.f` (00_scope.md R10). -/
def State.flag (s : State) (f : Flag) : Bool := getFlag s.p f

/-- `P.f <- b` (00_scope.md R10). -/
def State.setFlag (s : State) (f : Flag) (b : Bool) : State := { s with p := putFlag s.p f b }

/-- `SetZN(v)` (10_state.md R28). -/
def State.setZN (s : State) (v : Byte) : State := (s.setFlag .z (v == 0x00)).setFlag .n v.msb

/-- The 9-bit sum of two bytes and a carry (40_arithmetic.md R60). -/
def addSum (a m : Byte) (c : Bool) : BitVec 9 := a.setWidth 9 + m.setWidth 9 + (BitVec.ofBool c).setWidth 9

/-- The result byte of `AddWithCarry`: `sum[7:0]` (40_arithmetic.md R60). -/
def addResult (a m : Byte) (c : Bool) : Byte := (addSum a m c).setWidth 8

/-- The carry of `AddWithCarry`: `sum[8]` (40_arithmetic.md R60). -/
def addCarry (a m : Byte) (c : Bool) : Bool := (addSum a m c).msb

/-- The overflow of `AddWithCarry`: the operands share a sign bit and the result's differs (40_arithmetic.md R60). -/
def addOverflow (a m : Byte) (c : Bool) : Bool := ((a ^^^ addResult a m c) &&& (m ^^^ addResult a m c)).msb

/-- `Compare(reg, m)`: C, Z and N from the unsigned subtraction, nothing else (43_compare.md R90). -/
def State.compare (s : State) (reg m : Byte) : State :=
  ((s.setFlag .c (m.ule reg)).setFlag .z (reg == m)).setFlag .n (reg - m).msb

/-- The result of ASL (42_shifts.md R80). -/
def aslResult (v : Byte) : Byte := v <<< 1

/-- The result of LSR (42_shifts.md R81). -/
def lsrResult (v : Byte) : Byte := v >>> 1

/-- The result of ROL: the old carry enters bit 0 (42_shifts.md R82). -/
def rolResult (v : Byte) (c : Bool) : Byte := (v <<< 1) ||| (BitVec.ofBool c).setWidth 8

/-- The result of ROR: the old carry enters bit 7 (42_shifts.md R83). -/
def rorResult (v : Byte) (c : Bool) : Byte := ((BitVec.ofBool c).setWidth 8 <<< 7) ||| (v >>> 1)

/-- The bit a left shift or rotate moves out (42_shifts.md R80, R82). -/
def leftCarry (v : Byte) : Bool := v.getLsbD 7

/-- The bit a right shift or rotate moves out (42_shifts.md R81, R83). -/
def rightCarry (v : Byte) : Bool := v.getLsbD 0

/-- The copy of P that PHP and BRK push: B and U set (47_stack.md R131, 49_moves_control.md R162). -/
def softwareStatus (p : Byte) : Byte := p ||| 0x30

/-- The copy of P that `irq()` and `nmi()` push: B clear and U set (60_exceptions.md R203). -/
def hardwareStatus (p : Byte) : Byte := (p &&& 0xEF) ||| 0x20

end Sys2Proof.Machine
end

