-- ==== Sys2Proof/Machine/Ops.lean ====
section
/-! DEFINITION. The shared operations over registers and memory: register writes, byte and 16-bit reads, the stack, taking
an interrupt or BRK, and returning from one. Also the default parameters and the fixed addresses of 00_scope.md R8. -/

namespace Sys2Proof.Machine

/-- The default parameters of 00_scope.md R8, which the spec's rules and test vectors use (log entries 2 to 5). -/
def params : Params where
  retConv := .nmos
  brkSkip := true
  intSetsI := true
  cycles := defaultCycles
  illegalCycles := defaultIllegalCycles

/-- The base of the stack page (20_memory.md R37, 92_eei_decisions.md D1). -/
def stackBase : Word := 0x0100

/-- The NMI vector (60_exceptions.md R202). -/
def nmiVector : Word := 0xFFFA

/-- The RESET vector (60_exceptions.md R202). -/
def resetVector : Word := 0xFFFC

/-- The vector IRQ and BRK share (60_exceptions.md R202). -/
def irqVector : Word := 0xFFFE

/-- `A <- v` (10_state.md R22). -/
def State.setA (s : State) (v : Byte) : State := { s with a := v }

/-- `X <- v` (10_state.md R23). -/
def State.setX (s : State) (v : Byte) : State := { s with x := v }

/-- `Y <- v` (10_state.md R23). -/
def State.setY (s : State) (v : Byte) : State := { s with y := v }

/-- `SP <- v` (10_state.md R25). -/
def State.setSP (s : State) (v : Byte) : State := { s with sp := v }

/-- `P <- v`, all eight bits (10_state.md R26). -/
def State.setP (s : State) (v : Byte) : State := { s with p := v }

/-- `PC <- v` (10_state.md R24). -/
def State.setPC (s : State) (v : Word) : State := { s with pc := v }

/-- `opcode <- v` (10_state.md R30). -/
def State.setOpcode (s : State) (v : Byte) : State := { s with opcode := v }

/-- `MemRead(addr, 1)` (20_memory.md R32). -/
def State.read (s : State) (addr : Word) : Byte := Memory.byteAt s.mem addr.toNat

/-- `MemWrite(addr, 1, v)` (20_memory.md R32). -/
def State.write (s : State) (addr : Word) (v : Byte) : State := { s with mem := Memory.put s.mem addr.toNat v }

/-- `Read16(a)`: low byte at `a`, high byte at `a + 1` modulo 65536 (20_memory.md R33). -/
def State.read16 (s : State) (a : Word) : Word := joinBytes (s.read (a + 1)) (s.read a)

/-- The address after `p` inside `p`'s page: `(p & 0xFF00) | ((p + 1) & 0x00FF)` (30_encoding.md R47). -/
def nextInPage (p : Word) : Word := (p &&& 0xFF00) ||| ((p + 1) &&& 0x00FF)

/-- The 16-bit value at `p` whose high byte is taken from the same page (30_encoding.md R47). -/
def State.read16InPage (s : State) (p : Word) : Word := joinBytes (s.read (nextInPage p)) (s.read p)

/-- The 16-bit pointer held in zero page at `z` and `z + 1` modulo 256 (30_encoding.md R45). -/
def State.zeroPagePointer (s : State) (z : Byte) : Word := joinBytes (s.read (zext16 (z + 1))) (s.read (zext16 z))

/-- The stack slot a stack pointer names: `0x0100 + zext_16(SP)` (20_memory.md R37). -/
def stackSlot (sp : Byte) : Word := stackBase + zext16 sp

/-- `Push(v)`: write at SP, then decrement (20_memory.md R37). -/
def State.push (s : State) (v : Byte) : State := (s.write (stackSlot s.sp) v).setSP (s.sp - 1)

/-- Push a 16-bit value, high byte first (20_memory.md R37). -/
def State.push16 (s : State) (v : Word) : State := (s.push (hiByte v)).push (loByte v)

/-- The byte `Pull()` returns: the one above SP (20_memory.md R38). -/
def State.pulled (s : State) : Byte := s.read (stackSlot (s.sp + 1))

/-- The state `Pull()` leaves: SP incremented, memory as it was (20_memory.md R38). -/
def State.afterPull (s : State) : State := s.setSP (s.sp + 1)

/-- The 16-bit value two pulls return, low byte first (20_memory.md R38). -/
def State.pulled16 (s : State) : Word := joinBytes s.afterPull.pulled s.pulled

/-- The state two pulls leave (20_memory.md R38). -/
def State.afterPull16 (s : State) : State := s.afterPull.afterPull

/-- `if P_INT_SETS_I then P.I <- 1` (60_exceptions.md R206). -/
def State.maskInterrupts (p : Params) (s : State) : State := if p.intSetsI then s.setFlag .i true else s

/-- Taking an interrupt or BRK (60_exceptions.md R204, R205; 49_moves_control.md R162): push PC, high byte first, and the
given status copy, set I as `P_INT_SETS_I` says, and load PC from the vector. -/
def State.enter (p : Params) (vector : Word) (status : Byte) (s : State) : State :=
  let t := ((s.push16 s.pc).push status).maskInterrupts p
  t.setPC (t.read16 vector)

/-- Returning from an interrupt or BRK (46_jumps_calls.md R125): pull all of P, then PC with nothing added. -/
def State.returnFromInterrupt (s : State) : State :=
  let t := s.afterPull.setP s.pulled
  t.afterPull16.setPC t.pulled16

end Sys2Proof.Machine
end

