-- ==== Sys2Proof/Machine/Operands.lean ====
section
/-! DEFINITION. The operand forms: the effective address of each addressing mode and access through an operand location
(30_encoding.md R40 to R49). The operand bytes are in the instruction; PC has already passed them. -/

namespace Sys2Proof.Machine

/-- An operand location (30_encoding.md R41). The third value of R41, None, is an instruction without an operand field;
Relative's `Mem(t)` is `branchTarget`. -/
inductive Loc where
  | acc
  | mem (addr : Word)
  deriving DecidableEq, Repr

/-- `Get(loc)` (30_encoding.md R43). -/
def State.getLoc (s : State) : Loc → Byte
  | .acc => s.a
  | .mem addr => s.read addr

/-- `Set(loc, v)` (30_encoding.md R43). -/
def State.setLoc (s : State) (loc : Loc) (v : Byte) : State :=
  match loc with
  | .acc => s.setA v
  | .mem addr => s.write addr v

/-- The effective address of a memory operand: zero-page sums modulo 256, 16-bit sums modulo 65536 (30_encoding.md R45,
R46). -/
def State.effAddr (s : State) : MemOperand → Word
  | .zp z => zext16 z
  | .zpX z => zext16 (z + s.x)
  | .zpY z => zext16 (z + s.y)
  | .abs a => a
  | .absX a => a + zext16 s.x
  | .absY a => a + zext16 s.y
  | .indX z => s.zeroPagePointer (z + s.x)
  | .indY z => s.zeroPagePointer z + zext16 s.y

/-- The byte an instruction reads through its operand. For Immediate it is the literal, the byte at the old PC (30_encoding.md
R49), which the instruction carries (log entry 8). -/
def State.operand (s : State) : ReadOperand → Byte
  | .imm b => b
  | .mem m => s.read (s.effAddr m)

/-- The location of a read-modify-write operand (30_encoding.md R41). -/
def State.rmwLoc (s : State) : RmwOperand → Loc
  | .acc => .acc
  | .mem m => .mem (s.effAddr m)

/-- The target of JMP: the operand address (30_encoding.md R46), or the address read through the pointer, both bytes from
the pointer's page (R47). -/
def State.jumpTarget (s : State) : JumpOperand → Word
  | .abs a => a
  | .ind ptr => s.read16InPage ptr

/-- The target of a branch: PC after the offset byte plus the signed offset, modulo 65536 (30_encoding.md R48). -/
def State.branchTarget (s : State) (off : Byte) : Word := s.pc + sext16 off

end Sys2Proof.Machine
end

