-- ==== Sys2Proof/Machine/Arithmetic.lean ====
section
/-! DEFINITION. ADC and SBC (40_arithmetic.md R60 to R64). -/

namespace Sys2Proof.Machine

/-- `(r, c, v) <- AddWithCarry(A, m, P.C); A <- r; P.C <- c; P.V <- v; SetZN(r)` (R60, R61). D is not read (R63). -/
def State.addToA (s : State) (m : Byte) : State :=
  let c := s.flag .c
  ((((s.setA (addResult s.a m c)).setFlag .c (addCarry s.a m c)).setFlag .v (addOverflow s.a m c)).setZN
    (addResult s.a m c))

/-- ADC (R61). -/
def execAdc (o : ReadOperand) (s : State) : Result := .next (s.addToA (s.operand o))

/-- SBC: the add of the complemented operand (R62). -/
def execSbc (o : ReadOperand) (s : State) : Result := .next (s.addToA (~~~s.operand o))

end Sys2Proof.Machine
end

