-- ==== Sys2Proof/Machine/Branch.lean ====
section
/-! DEFINITION. The eight conditional branches (45_branches.md R110 to R118). -/

namespace Sys2Proof.Machine

/-- `Branch(cond)`: PC is already the address after the branch (R110). -/
def State.branch (s : State) (cond : Bool) (off : Byte) : State :=
  if cond then s.setPC (s.branchTarget off) else s

/-- BCC (R111). -/
def execBcc (off : Byte) (s : State) : Result := .next (s.branch (!s.flag .c) off)

/-- BCS (R112). -/
def execBcs (off : Byte) (s : State) : Result := .next (s.branch (s.flag .c) off)

/-- BEQ (R113). -/
def execBeq (off : Byte) (s : State) : Result := .next (s.branch (s.flag .z) off)

/-- BNE (R114). -/
def execBne (off : Byte) (s : State) : Result := .next (s.branch (!s.flag .z) off)

/-- BMI (R115). -/
def execBmi (off : Byte) (s : State) : Result := .next (s.branch (s.flag .n) off)

/-- BPL (R116). -/
def execBpl (off : Byte) (s : State) : Result := .next (s.branch (!s.flag .n) off)

/-- BVC (R117). -/
def execBvc (off : Byte) (s : State) : Result := .next (s.branch (!s.flag .v) off)

/-- BVS (R118). -/
def execBvs (off : Byte) (s : State) : Result := .next (s.branch (s.flag .v) off)

end Sys2Proof.Machine
end

