-- ==== Sys2Proof/Machine/Compare.lean ====
section
/-! DEFINITION. CMP, CPX and CPY (43_compare.md R90 to R93). -/

namespace Sys2Proof.Machine

/-- CMP (R91). -/
def execCmp (o : ReadOperand) (s : State) : Result := .next (s.compare s.a (s.operand o))

/-- CPX (R92). -/
def execCpx (o : ReadOperand) (s : State) : Result := .next (s.compare s.x (s.operand o))

/-- CPY (R93). -/
def execCpy (o : ReadOperand) (s : State) : Result := .next (s.compare s.y (s.operand o))

end Sys2Proof.Machine
end

