-- ==== Sys2Proof/Machine/Control.lean ====
section
/-! DEFINITION. BRK, NOP and the illegal-opcode stub ILL (49_moves_control.md R162 to R164). -/

namespace Sys2Proof.Machine

/-- `if P_BRK_SKIP then PC <- PC + 1`: pass the signature byte (R162). -/
def State.skipSignature (p : Params) (s : State) : State := if p.brkSkip then s.setPC (s.pc + 1) else s

/-- BRK under given parameters (R162); I does not mask it. -/
def State.break (p : Params) (s : State) : State :=
  (s.skipSignature p).enter p irqVector (softwareStatus s.p)

/-- BRK (R162). -/
def execBrk (s : State) : Result := .next (s.break params)

/-- NOP: nothing beyond what the step itself does (R163). -/
def execNop (s : State) : Result := .next s

/-- ILL: nothing beyond what the step itself does, whichever unassigned opcode it is (R164). -/
def execIll (_op : Byte) (s : State) : Result := .next s

end Sys2Proof.Machine
end

