-- ==== Sys2Proof/Machine/FlagOps.lean ====
section
/-! DEFINITION. SEC, CLC, SEI, CLI, SED, CLD and CLV: one bit of P each, nothing else (48_flags.md R140 to R146). -/

namespace Sys2Proof.Machine

/-- SEC (R140). -/
def execSec (s : State) : Result := .next (s.setFlag .c true)

/-- CLC (R141). -/
def execClc (s : State) : Result := .next (s.setFlag .c false)

/-- SEI (R142). -/
def execSei (s : State) : Result := .next (s.setFlag .i true)

/-- CLI (R143). -/
def execCli (s : State) : Result := .next (s.setFlag .i false)

/-- SED (R144). -/
def execSed (s : State) : Result := .next (s.setFlag .d true)

/-- CLD (R145). -/
def execCld (s : State) : Result := .next (s.setFlag .d false)

/-- CLV (R146). -/
def execClv (s : State) : Result := .next (s.setFlag .v false)

end Sys2Proof.Machine
end

