-- ==== Sys2Proof/Machine/IncDec.lean ====
section
/-! DEFINITION. INC and DEC on memory, INX, INY, DEX and DEY (44_incdec.md R100 to R105). -/

namespace Sys2Proof.Machine

/-- `MemWrite(addr, 1, r); SetZN(r)`: how INC and DEC end (R100, R101). -/
def State.storeZN (s : State) (addr : Word) (r : Byte) : State := (s.write addr r).setZN r

/-- INC (R100). -/
def execInc (m : MemOperand) (s : State) : Result :=
  .next (s.storeZN (s.effAddr m) (s.read (s.effAddr m) + 1))

/-- DEC (R101). -/
def execDec (m : MemOperand) (s : State) : Result :=
  .next (s.storeZN (s.effAddr m) (s.read (s.effAddr m) - 1))

/-- INX (R102). -/
def execInx (s : State) : Result := .next ((s.setX (s.x + 1)).setZN (s.x + 1))

/-- INY (R103). -/
def execIny (s : State) : Result := .next ((s.setY (s.y + 1)).setZN (s.y + 1))

/-- DEX (R104). -/
def execDex (s : State) : Result := .next ((s.setX (s.x - 1)).setZN (s.x - 1))

/-- DEY (R105). -/
def execDey (s : State) : Result := .next ((s.setY (s.y - 1)).setZN (s.y - 1))

end Sys2Proof.Machine
end

