-- ==== Sys2Proof/Machine/Jump.lean ====
section
/-! DEFINITION. JMP, JSR, RTS and RTI (46_jumps_calls.md R120 to R125). -/

namespace Sys2Proof.Machine

/-- The value JSR pushes: PC is the address after its three bytes (R121, R122). -/
def returnAddress (p : Params) (pc : Word) : Word :=
  match p.retConv with
  | .nmos => pc - 1
  | .literal => pc

/-- The address RTS returns to from the pulled value (R121, R123). -/
def resumeAddress (p : Params) (pulled : Word) : Word :=
  match p.retConv with
  | .nmos => pulled + 1
  | .literal => pulled

/-- JSR under given parameters (R122). -/
def State.call (p : Params) (target : Word) (s : State) : State :=
  (s.push16 (returnAddress p s.pc)).setPC target

/-- RTS under given parameters (R123). -/
def State.returnFromCall (p : Params) (s : State) : State :=
  s.afterPull16.setPC (resumeAddress p s.pulled16)

/-- JMP: `PC <- t` (R120). -/
def execJmp (o : JumpOperand) (s : State) : Result := .next (s.setPC (s.jumpTarget o))

/-- JSR (R122). -/
def execJsr (target : Word) (s : State) : Result := .next (s.call params target)

/-- RTS (R123). -/
def execRts (s : State) : Result := .next (s.returnFromCall params)

/-- RTI (R125). -/
def execRti (s : State) : Result := .next s.returnFromInterrupt

end Sys2Proof.Machine
end

