-- ==== Sys2Proof/Machine/Logic.lean ====
section
/-! DEFINITION. AND, ORA, EOR and BIT (41_logic.md R70 to R73). -/

namespace Sys2Proof.Machine

/-- `A <- r; SetZN(r)`: how AND, ORA, EOR and every load or pull into A end. -/
def State.loadA (s : State) (r : Byte) : State := (s.setA r).setZN r

/-- AND (R70). -/
def execAnd (o : ReadOperand) (s : State) : Result := .next (s.loadA (s.a &&& s.operand o))

/-- ORA (R71). -/
def execOra (o : ReadOperand) (s : State) : Result := .next (s.loadA (s.a ||| s.operand o))

/-- EOR (R72). -/
def execEor (o : ReadOperand) (s : State) : Result := .next (s.loadA (s.a ^^^ s.operand o))

/-- BIT: Z from `A & m`, N and V from bits 7 and 6 of the operand (R73). -/
def execBit (m : MemOperand) (s : State) : Result :=
  let v := s.read (s.effAddr m)
  .next (((s.setFlag .z ((s.a &&& v) == 0x00)).setFlag .n (v.getLsbD 7)).setFlag .v (v.getLsbD 6))

end Sys2Proof.Machine
end

