-- ==== Sys2Proof/Machine/Move.lean ====
section
/-! DEFINITION. Loads, stores and transfers (49_moves_control.md R150 to R161). -/

namespace Sys2Proof.Machine

/-- `X <- r; SetZN(r)`: how LDX, TAX and TSX end. -/
def State.loadX (s : State) (r : Byte) : State := (s.setX r).setZN r

/-- `Y <- r; SetZN(r)`: how LDY and TAY end. -/
def State.loadY (s : State) (r : Byte) : State := (s.setY r).setZN r

/-- LDA (R150). -/
def execLda (o : ReadOperand) (s : State) : Result := .next (s.loadA (s.operand o))

/-- LDX (R151). -/
def execLdx (o : ReadOperand) (s : State) : Result := .next (s.loadX (s.operand o))

/-- LDY (R152). -/
def execLdy (o : ReadOperand) (s : State) : Result := .next (s.loadY (s.operand o))

/-- STA (R153). -/
def execSta (m : MemOperand) (s : State) : Result := .next (s.write (s.effAddr m) s.a)

/-- STX (R154). -/
def execStx (m : MemOperand) (s : State) : Result := .next (s.write (s.effAddr m) s.x)

/-- STY (R155). -/
def execSty (m : MemOperand) (s : State) : Result := .next (s.write (s.effAddr m) s.y)

/-- TAX (R156). -/
def execTax (s : State) : Result := .next (s.loadX s.a)

/-- TAY (R157). -/
def execTay (s : State) : Result := .next (s.loadY s.a)

/-- TXA (R158). -/
def execTxa (s : State) : Result := .next (s.loadA s.x)

/-- TYA (R159). -/
def execTya (s : State) : Result := .next (s.loadA s.y)

/-- TSX (R160). -/
def execTsx (s : State) : Result := .next (s.loadX s.sp)

/-- TXS, the one transfer that leaves Z and N alone (R161). -/
def execTxs (s : State) : Result := .next (s.setSP s.x)

end Sys2Proof.Machine
end

