-- ==== Sys2Proof/Machine/Shift.lean ====
section
/-! DEFINITION. ASL, LSR, ROL and ROR on A or on a memory byte (42_shifts.md R80 to R83). -/

namespace Sys2Proof.Machine

/-- `P.C <- c; Set(loc, r); SetZN(r)`: how the four shifts end (R80 to R83). -/
def State.putShifted (s : State) (loc : Loc) (r : Byte) (c : Bool) : State :=
  ((s.setFlag .c c).setLoc loc r).setZN r

/-- ASL (R80). -/
def execAsl (o : RmwOperand) (s : State) : Result :=
  let loc := s.rmwLoc o
  let v := s.getLoc loc
  .next (s.putShifted loc (aslResult v) (leftCarry v))

/-- LSR (R81). -/
def execLsr (o : RmwOperand) (s : State) : Result :=
  let loc := s.rmwLoc o
  let v := s.getLoc loc
  .next (s.putShifted loc (lsrResult v) (rightCarry v))

/-- ROL (R82). -/
def execRol (o : RmwOperand) (s : State) : Result :=
  let loc := s.rmwLoc o
  let v := s.getLoc loc
  .next (s.putShifted loc (rolResult v (s.flag .c)) (leftCarry v))

/-- ROR (R83). -/
def execRor (o : RmwOperand) (s : State) : Result :=
  let loc := s.rmwLoc o
  let v := s.getLoc loc
  .next (s.putShifted loc (rorResult v (s.flag .c)) (rightCarry v))

end Sys2Proof.Machine
end

