-- ==== Sys2Proof/Machine/Stack.lean ====
section
/-! DEFINITION. PHA, PHP, PLA and PLP (47_stack.md R130 to R133). -/

namespace Sys2Proof.Machine

/-- PHA (R130). -/
def execPha (s : State) : Result := .next (s.push s.a)

/-- PHP: the pushed copy has B and U set, P is unchanged (R131). -/
def execPhp (s : State) : Result := .next (s.push (softwareStatus s.p))

/-- PLA (R132). -/
def execPla (s : State) : Result := .next (s.afterPull.loadA s.pulled)

/-- PLP: all eight bits (R133). -/
def execPlp (s : State) : Result := .next (s.afterPull.setP s.pulled)

end Sys2Proof.Machine
end

