-- ==== Sys2Proof/Decode.lean ====
section
/-! DEFINITION. Decoding and encoding. The decoder is the dispatch table of 30_encoding.md R50, written as the 16 by 16
map of R51; the encoder is written from the per-instruction table of R52, so that the two are independent readings of the
spec. Decoding never looks at anything but the instruction's own bytes (R42). -/

namespace Sys2Proof

namespace Table

/-- An entry of the dispatch table (R50): from the opcode byte and the two bytes after it, the instruction. An entry uses
as many operand bytes as its mode has (R42). -/
abbrev Entry := Byte → Byte → Byte → Instr

/-- The illegal-opcode stub (R53); its mode is Implied. -/
def illegal : Entry := fun op _ _ => .ill op

/-- Implied mode (R49). -/
def implied (i : Instr) : Entry := fun _ _ _ => i

/-- Accumulator mode (R49). -/
def accum (f : RmwOperand → Instr) : Entry := fun _ _ _ => f .acc

/-- Immediate mode (R49): the literal is the byte after the opcode. -/
def imm (f : ReadOperand → Instr) : Entry := fun _ b1 _ => f (.imm b1)

/-- Relative mode (R48): the offset is the byte after the opcode. -/
def rel (f : Byte → Instr) : Entry := fun _ b1 _ => f b1

/-- The operand bytes of Zero Page (R45). -/
def zp (b1 _b2 : Byte) : MemOperand := .zp b1

/-- The operand bytes of Zero Page,X (R45). -/
def zpX (b1 _b2 : Byte) : MemOperand := .zpX b1

/-- The operand bytes of Zero Page,Y (R45). -/
def zpY (b1 _b2 : Byte) : MemOperand := .zpY b1

/-- The operand bytes of Absolute, low byte first (R46). -/
def abs (b1 b2 : Byte) : MemOperand := .abs (joinBytes b2 b1)

/-- The operand bytes of Absolute,X (R46). -/
def absX (b1 b2 : Byte) : MemOperand := .absX (joinBytes b2 b1)

/-- The operand bytes of Absolute,Y (R46). -/
def absY (b1 b2 : Byte) : MemOperand := .absY (joinBytes b2 b1)

/-- The operand bytes of Indirect,X (R45). -/
def indX (b1 _b2 : Byte) : MemOperand := .indX b1

/-- The operand bytes of Indirect,Y (R45). -/
def indY (b1 _b2 : Byte) : MemOperand := .indY b1

/-- An instruction that reads a memory operand. -/
def rd (f : ReadOperand → Instr) (m : Byte → Byte → MemOperand) : Entry := fun _ b1 b2 => f (.mem (m b1 b2))

/-- An instruction whose operand is always in memory. -/
def st (f : MemOperand → Instr) (m : Byte → Byte → MemOperand) : Entry := fun _ b1 b2 => f (m b1 b2)

/-- A shift or rotate of a memory operand. -/
def rmw (f : RmwOperand → Instr) (m : Byte → Byte → MemOperand) : Entry := fun _ b1 b2 => f (.mem (m b1 b2))

/-- JMP Absolute (R46, 46_jumps_calls.md R120). -/
def jumpAbs : Entry := fun _ b1 b2 => .jmp (.abs (joinBytes b2 b1))

/-- JMP Indirect (R47). -/
def jumpInd : Entry := fun _ b1 b2 => .jmp (.ind (joinBytes b2 b1))

/-- JSR Absolute (46_jumps_calls.md R122). -/
def callAbs : Entry := fun _ b1 b2 => .jsr (joinBytes b2 b1)

/-- Row 0x of 30_encoding.md R51. -/
def row0 : List Entry :=
  [
    implied .brk, rd .ora indX, illegal, illegal,
    illegal, rd .ora zp, rmw .asl zp, illegal,
    implied .php, imm .ora, accum .asl, illegal,
    illegal, rd .ora abs, rmw .asl abs, illegal ]

/-- Row 1x of 30_encoding.md R51. -/
def row1 : List Entry :=
  [
    rel .bpl, rd .ora indY, illegal, illegal,
    illegal, rd .ora zpX, rmw .asl zpX, illegal,
    implied .clc, rd .ora absY, illegal, illegal,
    illegal, rd .ora absX, rmw .asl absX, illegal ]

/-- Row 2x of 30_encoding.md R51. -/
def row2 : List Entry :=
  [
    callAbs, rd .and indX, illegal, illegal,
    st .bit zp, rd .and zp, rmw .rol zp, illegal,
    implied .plp, imm .and, accum .rol, illegal,
    st .bit abs, rd .and abs, rmw .rol abs, illegal ]

/-- Row 3x of 30_encoding.md R51. -/
def row3 : List Entry :=
  [
    rel .bmi, rd .and indY, illegal, illegal,
    illegal, rd .and zpX, rmw .rol zpX, illegal,
    implied .sec, rd .and absY, illegal, illegal,
    illegal, rd .and absX, rmw .rol absX, illegal ]

/-- Row 4x of 30_encoding.md R51. -/
def row4 : List Entry :=
  [
    implied .rti, rd .eor indX, illegal, illegal,
    illegal, rd .eor zp, rmw .lsr zp, illegal,
    implied .pha, imm .eor, accum .lsr, illegal,
    jumpAbs, rd .eor abs, rmw .lsr abs, illegal ]

/-- Row 5x of 30_encoding.md R51. -/
def row5 : List Entry :=
  [
    rel .bvc, rd .eor indY, illegal, illegal,
    illegal, rd .eor zpX, rmw .lsr zpX, illegal,
    implied .cli, rd .eor absY, illegal, illegal,
    illegal, rd .eor absX, rmw .lsr absX, illegal ]

/-- Row 6x of 30_encoding.md R51. -/
def row6 : List Entry :=
  [
    implied .rts, rd .adc indX, illegal, illegal,
    illegal, rd .adc zp, rmw .ror zp, illegal,
    implied .pla, imm .adc, accum .ror, illegal,
    jumpInd, rd .adc abs, rmw .ror abs, illegal ]

/-- Row 7x of 30_encoding.md R51. -/
def row7 : List Entry :=
  [
    rel .bvs, rd .adc indY, illegal, illegal,
    illegal, rd .adc zpX, rmw .ror zpX, illegal,
    implied .sei, rd .adc absY, illegal, illegal,
    illegal, rd .adc absX, rmw .ror absX, illegal ]

/-- Row 8x of 30_encoding.md R51. -/
def row8 : List Entry :=
  [
    illegal, st .sta indX, illegal, illegal,
    st .sty zp, st .sta zp, st .stx zp, illegal,
    implied .dey, illegal, implied .txa, illegal,
    st .sty abs, st .sta abs, st .stx abs, illegal ]

/-- Row 9x of 30_encoding.md R51. -/
def row9 : List Entry :=
  [
    rel .bcc, st .sta indY, illegal, illegal,
    st .sty zpX, st .sta zpX, st .stx zpY, illegal,
    implied .tya, st .sta absY, implied .txs, illegal,
    illegal, st .sta absX, illegal, illegal ]

/-- Row Ax of 30_encoding.md R51. -/
def rowA : List Entry :=
  [
    imm .ldy, rd .lda indX, imm .ldx, illegal,
    rd .ldy zp, rd .lda zp, rd .ldx zp, illegal,
    implied .tay, imm .lda, implied .tax, illegal,
    rd .ldy abs, rd .lda abs, rd .ldx abs, illegal ]

/-- Row Bx of 30_encoding.md R51. -/
def rowB : List Entry :=
  [
    rel .bcs, rd .lda indY, illegal, illegal,
    rd .ldy zpX, rd .lda zpX, rd .ldx zpY, illegal,
    implied .clv, rd .lda absY, implied .tsx, illegal,
    rd .ldy absX, rd .lda absX, rd .ldx absY, illegal ]

/-- Row Cx of 30_encoding.md R51. -/
def rowC : List Entry :=
  [
    imm .cpy, rd .cmp indX, illegal, illegal,
    rd .cpy zp, rd .cmp zp, st .dec zp, illegal,
    implied .iny, imm .cmp, implied .dex, illegal,
    rd .cpy abs, rd .cmp abs, st .dec abs, illegal ]

/-- Row Dx of 30_encoding.md R51. -/
def rowD : List Entry :=
  [
    rel .bne, rd .cmp indY, illegal, illegal,
    illegal, rd .cmp zpX, st .dec zpX, illegal,
    implied .cld, rd .cmp absY, illegal, illegal,
    illegal, rd .cmp absX, st .dec absX, illegal ]

/-- Row Ex of 30_encoding.md R51. -/
def rowE : List Entry :=
  [
    imm .cpx, rd .sbc indX, illegal, illegal,
    rd .cpx zp, rd .sbc zp, st .inc zp, illegal,
    implied .inx, imm .sbc, implied .nop, illegal,
    rd .cpx abs, rd .sbc abs, st .inc abs, illegal ]

/-- Row Fx of 30_encoding.md R51. -/
def rowF : List Entry :=
  [
    rel .beq, rd .sbc indY, illegal, illegal,
    illegal, rd .sbc zpX, st .inc zpX, illegal,
    implied .sed, rd .sbc absY, illegal, illegal,
    illegal, rd .sbc absX, st .inc absX, illegal ]

/-- The opcode map (R51): one row per high nibble of the opcode byte, one column per low nibble. -/
def rows : List (List Entry) :=
  [row0, row1, row2, row3, row4, row5, row6, row7, row8, row9, rowA, rowB, rowC, rowD, rowE, rowF]

end Table

/-- `DISPATCH[op]` (30_encoding.md R50). -/
def dispatch (op : Byte) : Table.Entry :=
  (Table.rows.getD (op.toNat / 16) []).getD (op.toNat % 16) Table.illegal

/-- The instruction that stands at an opcode byte followed by two bytes; an instruction that is shorter ignores the rest. -/
def decodeBytes (op b1 b2 : Byte) : Instr := dispatch op op b1 b2

/-- The addressing mode `e.mode` of an instruction (30_encoding.md R50); the stub's is Implied (R53). -/
def Instr.mode : Instr → Mode
  | .adc o | .sbc o | .and o | .ora o | .eor o | .cmp o | .cpx o | .cpy o => o.mode
  | .lda o | .ldx o | .ldy o => o.mode
  | .bit m | .inc m | .dec m | .sta m | .stx m | .sty m => m.mode
  | .asl o | .lsr o | .rol o | .ror o => o.mode
  | .bcc _ | .bcs _ | .beq _ | .bne _ | .bmi _ | .bpl _ | .bvc _ | .bvs _ => .relative
  | .jmp o => o.mode
  | .jsr _ => .absolute
  | .inx | .iny | .dex | .dey | .rts | .rti | .pha | .php => .implied
  | .pla | .plp | .sec | .clc | .sei | .cli | .sed | .cld => .implied
  | .clv | .tax | .tay | .txa | .tya | .tsx | .txs | .brk => .implied
  | .nop => .implied
  | .ill _ => .implied

/-- How many operand bytes a mode has (30_encoding.md R42). -/
def Mode.operandBytes : Mode → Nat
  | .accumulator | .implied => 0
  | .immediate | .zeroPage | .zeroPageX | .zeroPageY | .indirectX | .indirectY | .relative => 1
  | .absolute | .absoluteX | .absoluteY | .indirect => 2

/-- The length of an instruction in bytes: the opcode byte and its operand bytes (30_encoding.md R42). -/
def Instr.length (i : Instr) : Nat := 1 + i.mode.operandBytes

/-- Why a byte list holds no instruction. Every opcode byte and every operand byte is legal (30_encoding.md R54), so a
list can only be too short. -/
inductive DecodeError where
  /-- The list is empty. -/
  | noOpcode
  /-- The list ends before the operand bytes of the opcode `op`. -/
  | missingOperand (op : Byte)
  deriving DecidableEq, Repr

/-- Decode the instruction at the front of a byte list and return the bytes after it (30_encoding.md R42, R50). -/
def decode : List Byte → Except DecodeError (Instr × List Byte)
  | [] => .error .noOpcode
  | op :: rest =>
    let i := decodeBytes op (rest.getD 0 0) (rest.getD 1 0)
    if rest.length < i.mode.operandBytes then .error (.missingOperand op)
    else .ok (i, rest.drop i.mode.operandBytes)

/-- A row of R52 for the eight data addressing modes, in the table's order (zp, zp,X, zp,Y, abs, abs,X, abs,Y, (zp,X),
(zp),Y). -/
def memCode (zp zpX zpY abs absX absY indX indY : Option Byte) : MemOperand → Option Byte
  | .zp _ => zp
  | .zpX _ => zpX
  | .zpY _ => zpY
  | .abs _ => abs
  | .absX _ => absX
  | .absY _ => absY
  | .indX _ => indX
  | .indY _ => indY

/-- A row of R52 with an Immediate column before the memory columns. -/
def readCode (imm zp zpX zpY abs absX absY indX indY : Option Byte) : ReadOperand → Option Byte
  | .imm _ => imm
  | .mem m => memCode zp zpX zpY abs absX absY indX indY m

/-- A row of R52 with an Accumulator column before the memory columns. -/
def rmwCode (acc zp zpX zpY abs absX absY indX indY : Option Byte) : RmwOperand → Option Byte
  | .acc => acc
  | .mem m => memCode zp zpX zpY abs absX absY indX indY m

/-- The two JMP cells of R52. -/
def jumpCode (abs ind : Option Byte) : JumpOperand → Option Byte
  | .abs _ => abs
  | .ind _ => ind

/-- The opcode byte of an instruction (30_encoding.md R52, R53); none where the table has no cell for its mode. -/
def Instr.opcode : Instr → Option Byte
  | .adc o => readCode 0x69#8 0x65#8 0x75#8 none 0x6D#8 0x7D#8 0x79#8 0x61#8 0x71#8 o
  | .sbc o => readCode 0xE9#8 0xE5#8 0xF5#8 none 0xED#8 0xFD#8 0xF9#8 0xE1#8 0xF1#8 o
  | .and o => readCode 0x29#8 0x25#8 0x35#8 none 0x2D#8 0x3D#8 0x39#8 0x21#8 0x31#8 o
  | .ora o => readCode 0x09#8 0x05#8 0x15#8 none 0x0D#8 0x1D#8 0x19#8 0x01#8 0x11#8 o
  | .eor o => readCode 0x49#8 0x45#8 0x55#8 none 0x4D#8 0x5D#8 0x59#8 0x41#8 0x51#8 o
  | .bit m => memCode 0x24#8 none none 0x2C#8 none none none none m
  | .asl o => rmwCode 0x0A#8 0x06#8 0x16#8 none 0x0E#8 0x1E#8 none none none o
  | .lsr o => rmwCode 0x4A#8 0x46#8 0x56#8 none 0x4E#8 0x5E#8 none none none o
  | .rol o => rmwCode 0x2A#8 0x26#8 0x36#8 none 0x2E#8 0x3E#8 none none none o
  | .ror o => rmwCode 0x6A#8 0x66#8 0x76#8 none 0x6E#8 0x7E#8 none none none o
  | .cmp o => readCode 0xC9#8 0xC5#8 0xD5#8 none 0xCD#8 0xDD#8 0xD9#8 0xC1#8 0xD1#8 o
  | .cpx o => readCode 0xE0#8 0xE4#8 none none 0xEC#8 none none none none o
  | .cpy o => readCode 0xC0#8 0xC4#8 none none 0xCC#8 none none none none o
  | .inc m => memCode 0xE6#8 0xF6#8 none 0xEE#8 0xFE#8 none none none m
  | .dec m => memCode 0xC6#8 0xD6#8 none 0xCE#8 0xDE#8 none none none m
  | .inx => some 0xE8#8
  | .iny => some 0xC8#8
  | .dex => some 0xCA#8
  | .dey => some 0x88#8
  | .bcc _ => some 0x90#8
  | .bcs _ => some 0xB0#8
  | .beq _ => some 0xF0#8
  | .bne _ => some 0xD0#8
  | .bmi _ => some 0x30#8
  | .bpl _ => some 0x10#8
  | .bvc _ => some 0x50#8
  | .bvs _ => some 0x70#8
  | .jmp o => jumpCode 0x4C#8 0x6C#8 o
  | .jsr _ => some 0x20#8
  | .rts => some 0x60#8
  | .rti => some 0x40#8
  | .pha => some 0x48#8
  | .php => some 0x08#8
  | .pla => some 0x68#8
  | .plp => some 0x28#8
  | .sec => some 0x38#8
  | .clc => some 0x18#8
  | .sei => some 0x78#8
  | .cli => some 0x58#8
  | .sed => some 0xF8#8
  | .cld => some 0xD8#8
  | .clv => some 0xB8#8
  | .lda o => readCode 0xA9#8 0xA5#8 0xB5#8 none 0xAD#8 0xBD#8 0xB9#8 0xA1#8 0xB1#8 o
  | .ldx o => readCode 0xA2#8 0xA6#8 none 0xB6#8 0xAE#8 none 0xBE#8 none none o
  | .ldy o => readCode 0xA0#8 0xA4#8 0xB4#8 none 0xAC#8 0xBC#8 none none none o
  | .sta m => memCode 0x85#8 0x95#8 none 0x8D#8 0x9D#8 0x99#8 0x81#8 0x91#8 m
  | .stx m => memCode 0x86#8 none 0x96#8 0x8E#8 none none none none m
  | .sty m => memCode 0x84#8 0x94#8 none 0x8C#8 none none none none m
  | .tax => some 0xAA#8
  | .tay => some 0xA8#8
  | .txa => some 0x8A#8
  | .tya => some 0x98#8
  | .tsx => some 0xBA#8
  | .txs => some 0x9A#8
  | .brk => some 0x00#8
  | .nop => some 0xEA#8
  | .ill op => if op ∈ unassignedOpcodes then some op else none

/-- A 16-bit operand as the two bytes of the instruction, low byte first (30_encoding.md R42). -/
def wordBytes (w : Word) : List Byte := [loByte w, hiByte w]

/-- The operand bytes of a memory operand. -/
def MemOperand.bytes : MemOperand → List Byte
  | .zp z | .zpX z | .zpY z | .indX z | .indY z => [z]
  | .abs a | .absX a | .absY a => wordBytes a

/-- The operand bytes of a read operand. -/
def ReadOperand.bytes : ReadOperand → List Byte
  | .imm b => [b]
  | .mem m => m.bytes

/-- The operand bytes of a read-modify-write operand. -/
def RmwOperand.bytes : RmwOperand → List Byte
  | .acc => []
  | .mem m => m.bytes

/-- The operand bytes of a jump operand. -/
def JumpOperand.bytes : JumpOperand → List Byte
  | .abs a | .ind a => wordBytes a

/-- The operand bytes of an instruction (30_encoding.md R42). -/
def Instr.operandBytes : Instr → List Byte
  | .adc o | .sbc o | .and o | .ora o | .eor o | .cmp o | .cpx o | .cpy o => o.bytes
  | .lda o | .ldx o | .ldy o => o.bytes
  | .bit m | .inc m | .dec m | .sta m | .stx m | .sty m => m.bytes
  | .asl o | .lsr o | .rol o | .ror o => o.bytes
  | .bcc off | .bcs off | .beq off | .bne off | .bmi off | .bpl off | .bvc off | .bvs off => [off]
  | .jmp o => o.bytes
  | .jsr t => wordBytes t
  | .inx | .iny | .dex | .dey | .rts | .rti | .pha | .php => []
  | .pla | .plp | .sec | .clc | .sei | .cli | .sed | .cld => []
  | .clv | .tax | .tay | .txa | .tya | .tsx | .txs | .brk => []
  | .nop => []
  | .ill _ => []

/-- The bytes of a well-formed instruction; none for a term the opcode map does not hold. -/
def encode (i : Instr) : Option (List Byte) := i.opcode.map fun op => op :: i.operandBytes

/-- The mnemonic of an instruction, "for diagnostics only" (30_encoding.md R50); "ILL" for the stub
(92_eei_decisions.md D26). No meaning reads it. -/
def Instr.mnemonic : Instr → String
  | .adc _ => "ADC"
  | .sbc _ => "SBC"
  | .and _ => "AND"
  | .ora _ => "ORA"
  | .eor _ => "EOR"
  | .bit _ => "BIT"
  | .asl _ => "ASL"
  | .lsr _ => "LSR"
  | .rol _ => "ROL"
  | .ror _ => "ROR"
  | .cmp _ => "CMP"
  | .cpx _ => "CPX"
  | .cpy _ => "CPY"
  | .inc _ => "INC"
  | .dec _ => "DEC"
  | .inx => "INX"
  | .iny => "INY"
  | .dex => "DEX"
  | .dey => "DEY"
  | .bcc _ => "BCC"
  | .bcs _ => "BCS"
  | .beq _ => "BEQ"
  | .bne _ => "BNE"
  | .bmi _ => "BMI"
  | .bpl _ => "BPL"
  | .bvc _ => "BVC"
  | .bvs _ => "BVS"
  | .jmp _ => "JMP"
  | .jsr _ => "JSR"
  | .rts => "RTS"
  | .rti => "RTI"
  | .pha => "PHA"
  | .php => "PHP"
  | .pla => "PLA"
  | .plp => "PLP"
  | .sec => "SEC"
  | .clc => "CLC"
  | .sei => "SEI"
  | .cli => "CLI"
  | .sed => "SED"
  | .cld => "CLD"
  | .clv => "CLV"
  | .lda _ => "LDA"
  | .ldx _ => "LDX"
  | .ldy _ => "LDY"
  | .sta _ => "STA"
  | .stx _ => "STX"
  | .sty _ => "STY"
  | .tax => "TAX"
  | .tay => "TAY"
  | .txa => "TXA"
  | .tya => "TYA"
  | .tsx => "TSX"
  | .txs => "TXS"
  | .brk => "BRK"
  | .nop => "NOP"
  | .ill _ => "ILL"

/-- The first `nbits` bits of `w` as the three bytes of the longest instruction, byte 0 the least significant; every bit
above `nbits` is 0. -/
def tableBytes (nbits w : Nat) : Byte × Byte × Byte :=
  let v := w % 2 ^ nbits
  (BitVec.ofNat 8 v, BitVec.ofNat 8 (v / 256), BitVec.ofNat 8 (v / 65536))

/-- The instruction the decoder reads from a row of spec/opcode_table.json whose bits are `w`, byte 0 in bits 7..0. -/
def decodeTableWord (nbits w : Nat) : Option Instr :=
  let b := tableBytes nbits w
  match decode [b.1, b.2.1, b.2.2] with
  | .ok (i, _) => some i
  | .error _ => none

end Sys2Proof
end

