-- ==== Sys2Proof/Machine/Fetch.lean ====
section
/-! DEFINITION. Fetching: the bytes at PC, the instruction they are, and what consuming them does to the state, steps (a)
to (d) of 30_encoding.md R44. Reading the three bytes at once is the same as reading them one by one, since a read changes
nothing and nothing is written before the instruction's own rule runs (log entry 9). -/

namespace Sys2Proof.Machine

/-- The byte at PC, the opcode of the next step (R44 (a)). -/
def State.fetchOpcode (s : State) : Byte := s.read s.pc

/-- The instruction at PC: the opcode and, at PC + 1 and PC + 2 modulo 65536, the bytes an operand may take (R44, R42). -/
def State.fetchInstr (s : State) : Instr :=
  decodeBytes s.fetchOpcode (s.read (s.pc + 1)) (s.read (s.pc + 2))

/-- The diagnostic copy of the opcode and PC advanced past the whole instruction (R44 (a), (b), (d)). -/
def State.consume (s : State) (i : Instr) : State :=
  (s.setOpcode s.fetchOpcode).setPC (s.pc + BitVec.ofNat 16 i.length)

/-- The value `step()` returns at a state: the base count of the opcode at PC, no extra cycles (R44 (f)). -/
def State.stepCycles (p : Params) (s : State) : Nat := entryCycles p s.fetchOpcode

/-- A state with the three bytes of a table word at PC. -/
def State.placeWord (s : State) (nbits w : Nat) : State :=
  let b := tableBytes nbits w
  ((s.write s.pc b.1).write (s.pc + 1) b.2.1).write (s.pc + 2) b.2.2

end Sys2Proof.Machine
end

