-- ==== Sys2Proof/Machine/Step.lean ====
section
/-! DEFINITION. One `step()`: exactly one instruction (30_encoding.md R44). -/

namespace Sys2Proof.Machine

/-- `step()`: fetch and decode the instruction at PC, consume its bytes, run its rule (R44). The count it returns is
`State.stepCycles`. No interrupt is taken here: `irq()` and `nmi()` are operations of their own (60_exceptions.md R210). -/
def step (s : State) : Host.Outcome State Fault Refusal :=
  exec s.fetchInstr (s.consume s.fetchInstr)

/-- A table word stored where `step` fetches its next instruction: at PC. -/
def State.withFetchWord (s : State) (nbits w : Nat) : State := s.placeWord nbits w

end Sys2Proof.Machine
end

