-- ==== Sys2Proof/Machine/Assembler.lean ====
section
/-! DEFINITION. The assembler spelling of an instruction (30_encoding.md R55, 92_eei_decisions.md D32) and the offset byte an
assembler stores for a branch. No meaning reads any of it, and there is no pseudo-instruction (R56). -/

namespace Sys2Proof

/-- A hexadecimal digit. -/
def hexDigit (n : Nat) : Char := "0123456789ABCDEF".toList.getD n '0'

/-- `$nn` (00_scope.md R9). -/
def hexByte (b : Byte) : String := "$" ++ String.ofList [hexDigit (b.toNat / 16), hexDigit (b.toNat % 16)]

/-- `$hhll` (00_scope.md R9). -/
def hexWord (w : Word) : String :=
  "$" ++ String.ofList [hexDigit (w.toNat / 4096), hexDigit (w.toNat / 256 % 16), hexDigit (w.toNat / 16 % 16),
    hexDigit (w.toNat % 16)]

/-- The operand of a memory addressing mode (R55). -/
def MemOperand.assembly : MemOperand → String
  | .zp z => hexByte z
  | .zpX z => hexByte z ++ ",X"
  | .zpY z => hexByte z ++ ",Y"
  | .abs a => hexWord a
  | .absX a => hexWord a ++ ",X"
  | .absY a => hexWord a ++ ",Y"
  | .indX z => "(" ++ hexByte z ++ ",X)"
  | .indY z => "(" ++ hexByte z ++ "),Y"

/-- The operand of a read form (R55). -/
def ReadOperand.assembly : ReadOperand → String
  | .imm b => "#" ++ hexByte b
  | .mem m => m.assembly

/-- The operand of a shift or rotate (R55). -/
def RmwOperand.assembly : RmwOperand → String
  | .acc => "A"
  | .mem m => m.assembly

/-- The operand of JMP (R55). -/
def JumpOperand.assembly : JumpOperand → String
  | .abs a => hexWord a
  | .ind ptr => "(" ++ hexWord ptr ++ ")"

/-- The offset byte stored for a branch at `addr` to `label`: `label - (addr + 2)` (R55, R48). -/
def branchOffset (addr label : Word) : Byte := (label - (addr + 2)).setWidth 8

/-- The label a branch at `addr` with an offset byte names (R48). -/
def branchLabel (addr : Word) (off : Byte) : Word := addr + 2 + sext16 off

/-- The operand text of the instruction at `addr`; empty for Implied (R55). -/
def Instr.operandText (addr : Word) : Instr → String
  | .adc o | .sbc o | .and o | .ora o | .eor o | .cmp o | .cpx o | .cpy o => o.assembly
  | .lda o | .ldx o | .ldy o => o.assembly
  | .bit m | .inc m | .dec m | .sta m | .stx m | .sty m => m.assembly
  | .asl o | .lsr o | .rol o | .ror o => o.assembly
  | .bcc off | .bcs off | .beq off | .bne off => hexWord (branchLabel addr off)
  | .bmi off | .bpl off | .bvc off | .bvs off => hexWord (branchLabel addr off)
  | .jmp o => o.assembly
  | .jsr t => hexWord t
  | .inx | .iny | .dex | .dey | .rts | .rti | .pha | .php | .pla | .plp => ""
  | .sec | .clc | .sei | .cli | .sed | .cld | .clv => ""
  | .tax | .tay | .txa | .tya | .tsx | .txs | .brk | .nop | .ill _ => ""

/-- The assembler line of the instruction at `addr` (R55). -/
def Instr.assembly (addr : Word) (i : Instr) : String :=
  if i.operandText addr = "" then i.mnemonic else i.mnemonic ++ " " ++ i.operandText addr

end Sys2Proof
end

