-- ==== Sys2Proof/Machine/HostOps.lean ====
section
/-! DEFINITION. The core's other operations and the host's accesses (60_exceptions.md R201 to R211, 70_reset_and_hazards.md
R221), each a function of the whole state, and a run as the sequence of operations the host chooses. Everything here takes
the parameters of 00_scope.md R8; `exec` and `step` are the same machine at the default `params`. -/

namespace Sys2Proof.Machine

/-- `irq()`: nothing at all when I is set, else interrupt entry through the IRQ vector (60_exceptions.md R204). -/
def State.irq (p : Params) (s : State) : State :=
  if s.flag .i then s else s.enter p irqVector (hardwareStatus s.p)

/-- `nmi()`: interrupt entry through the NMI vector, whatever I holds (60_exceptions.md R205). -/
def State.nmi (p : Params) (s : State) : State := s.enter p nmiVector (hardwareStatus s.p)

/-- `reset()`: every register zeroed, PC from the RESET vector, memory as it was (70_reset_and_hazards.md R221). -/
def State.hostReset (s : State) : State :=
  let t := (((((s.setA 0x00).setX 0x00).setY 0x00).setSP 0x00).setP 0x00).setOpcode 0x00
  t.setPC (t.read16 resetVector)

/-- `HostWrite(addr, v)`: the memory load interface, allowed between any two operations (60_exceptions.md R211). -/
def State.hostWrite (s : State) (addr : Word) (v : Byte) : State := s.write addr v

/-- What the diagnostic interface reads (60_exceptions.md R211). -/
structure Diagnostic where
  pc : Word
  sp : Byte
  a : Byte
  x : Byte
  y : Byte
  p : Byte
  opcode : Byte
  deriving DecidableEq, Repr

/-- The diagnostic read: the register values, changing nothing (60_exceptions.md R211). -/
def State.diagnostic (s : State) : Diagnostic where
  pc := s.pc
  sp := s.sp
  a := s.a
  x := s.x
  y := s.y
  p := s.p
  opcode := s.opcode

/-- `exec` under given parameters. Only JSR, RTS and BRK name a parameter (00_scope.md R8); every other instruction's rule
is `exec`'s. -/
def execWith (p : Params) (i : Instr) (s : State) : Result :=
  match i with
  | .jsr target => .next (s.call p target)
  | .rts => .next (s.returnFromCall p)
  | .brk => .next (s.break p)
  | other => exec other s

/-- `step()` under given parameters (30_encoding.md R44). -/
def stepWith (p : Params) (s : State) : Result := execWith p s.fetchInstr (s.consume s.fetchInstr)

/-- An operation of the host on the core (60_exceptions.md R210, R211). -/
inductive HostOp where
  | step
  | irq
  | nmi
  | reset
  | write (addr : Word) (v : Byte)
  deriving DecidableEq, Repr

/-- One operation, an atomic transition of the whole state (60_exceptions.md R210). -/
def applyOp (p : Params) (op : HostOp) (s : State) : Result :=
  match op with
  | .step => stepWith p s
  | .irq => .next (s.irq p)
  | .nmi => .next (s.nmi p)
  | .reset => .next s.hostReset
  | .write addr v => .next (s.hostWrite addr v)

/-- A run: the operations in the order the host calls them, each one completely (60_exceptions.md R208, R210). -/
def runOps (p : Params) : List HostOp → State → Result
  | [], s => .next s
  | op :: ops, s =>
    match applyOp p op s with
    | .next t => runOps p ops t
    | .fault r => .fault r
    | .refused r => .refused r

end Sys2Proof.Machine
end

