-- ==== Sys2Proof/Safety.lean ====
section
/-! DEFINITION. The words claims are stated in: the invariant of the memory's form, what an operation leaves as it was, and
running a few instructions one after another. What each instruction may
write is listed here from the spec's own lists, not from the meanings. -/

namespace Sys2Proof.Machine

/-- The numbered-register view of A, X, Y and SP (10_state.md R22 to R25). -/
inductive Reg where
  | a | x | y | sp
  deriving DecidableEq, Repr

/-- The value of a register. -/
def State.reg (s : State) : Reg → Byte
  | .a => s.a
  | .x => s.x
  | .y => s.y
  | .sp => s.sp

/-- The invariant of the model: memory is in its canonical form. -/
def State.Inv (s : State) : Prop := s.mem.wf = true

/-- From `s` to `t`, every register but those of `rs`, every flag but those of `fs`, every memory byte but those at `addrs`,
and the `opcode` register are as they were. PC is spoken of separately. -/
structure Frame (rs : List Reg) (fs : List Flag) (addrs : List Word) (s t : State) : Prop where
  regs : ∀ r, r ∉ rs → t.reg r = s.reg r
  flags : ∀ f, f ∉ fs → t.flag f = s.flag f
  mem : ∀ addr, addr ∉ addrs → t.read addr = s.read addr
  opcode : t.opcode = s.opcode

/-- Run instructions one after another, each on the state the one before it leaves. -/
def runInstrs : List Instr → State → Result
  | [], s => .next s
  | i :: is, s =>
    match exec i s with
    | .next t => runInstrs is t
    | .fault r => .fault r
    | .refused r => .refused r

end Sys2Proof.Machine

namespace Sys2Proof
open Machine

/-- The registers an instruction writes (10_state.md R22, R23, R25; PC apart). -/
def Instr.regsWritten : Instr → List Reg
  | .adc _ | .sbc _ | .and _ | .ora _ | .eor _ | .lda _ | .txa | .tya => [.a]
  | .asl .acc | .lsr .acc | .rol .acc | .ror .acc => [.a]
  | .pla => [.a, .sp]
  | .ldx _ | .inx | .dex | .tax | .tsx => [.x]
  | .ldy _ | .iny | .dey | .tay => [.y]
  | .txs | .pha | .php | .plp | .jsr _ | .rts | .rti | .brk => [.sp]
  | .asl (.mem _) | .lsr (.mem _) | .rol (.mem _) | .ror (.mem _) => []
  | .bit _ | .cmp _ | .cpx _ | .cpy _ | .inc _ | .dec _ | .sta _ | .stx _ | .sty _ => []
  | .bcc _ | .bcs _ | .beq _ | .bne _ | .bmi _ | .bpl _ | .bvc _ | .bvs _ | .jmp _ => []
  | .sec | .clc | .sei | .cli | .sed | .cld | .clv | .nop | .ill _ => []

/-- All eight flags of P. -/
def allFlags : List Flag := [.c, .z, .i, .d, .b, .u, .v, .n]

/-- The flags an instruction may write: the table of 10_state.md R29. -/
def Instr.flagsWritten : Instr → List Flag
  | .adc _ | .sbc _ => [.n, .v, .z, .c]
  | .and _ | .ora _ | .eor _ => [.n, .z]
  | .bit _ => [.n, .v, .z]
  | .asl _ | .lsr _ | .rol _ | .ror _ | .cmp _ | .cpx _ | .cpy _ => [.n, .z, .c]
  | .inc _ | .dec _ | .inx | .iny | .dex | .dey => [.n, .z]
  | .lda _ | .ldx _ | .ldy _ | .pla | .tax | .tay | .txa | .tya | .tsx => [.n, .z]
  | .plp | .rti => allFlags
  | .sec | .clc => [.c]
  | .sei | .cli | .brk => [.i]
  | .sed | .cld => [.d]
  | .clv => [.v]
  | .sta _ | .stx _ | .sty _ | .txs | .pha | .php | .jmp _ | .jsr _ | .rts | .nop | .ill _ => []
  | .bcc _ | .bcs _ | .beq _ | .bne _ | .bmi _ | .bpl _ | .bvc _ | .bvs _ => []

/-- The addresses an instruction stores to from a state: its operand's effective address (49_moves_control.md R153 to R155,
42_shifts.md, 44_incdec.md R100, R101) or the stack slots it pushes to (20_memory.md R37). -/
def Instr.storedTo (s : State) : Instr → List Word
  | .sta m | .stx m | .sty m | .inc m | .dec m => [s.effAddr m]
  | .asl (.mem m) | .lsr (.mem m) | .rol (.mem m) | .ror (.mem m) => [s.effAddr m]
  | .pha | .php => [stackSlot s.sp]
  | .jsr _ => [stackSlot s.sp, stackSlot (s.sp - 1)]
  | .brk => [stackSlot s.sp, stackSlot (s.sp - 1), stackSlot (s.sp - 2)]
  | .asl .acc | .lsr .acc | .rol .acc | .ror .acc => []
  | .adc _ | .sbc _ | .and _ | .ora _ | .eor _ | .bit _ | .cmp _ | .cpx _ | .cpy _ => []
  | .lda _ | .ldx _ | .ldy _ | .inx | .iny | .dex | .dey => []
  | .bcc _ | .bcs _ | .beq _ | .bne _ | .bmi _ | .bpl _ | .bvc _ | .bvs _ => []
  | .jmp _ | .rts | .rti | .pla | .plp | .tax | .tay | .txa | .tya | .tsx | .txs => []
  | .sec | .clc | .sei | .cli | .sed | .cld | .clv | .nop | .ill _ => []

/-- The instructions that may overwrite PC beyond passing their own bytes (10_state.md R24). -/
def Instr.writesPC : Instr → Bool
  | .bcc _ | .bcs _ | .beq _ | .bne _ | .bmi _ | .bpl _ | .bvc _ | .bvs _ => true
  | .jmp _ | .jsr _ | .rts | .rti | .brk => true
  | .adc _ | .sbc _ | .and _ | .ora _ | .eor _ | .bit _ | .cmp _ | .cpx _ | .cpy _ => false
  | .asl _ | .lsr _ | .rol _ | .ror _ | .inc _ | .dec _ | .inx | .iny | .dex | .dey => false
  | .lda _ | .ldx _ | .ldy _ | .sta _ | .stx _ | .sty _ | .pha | .php | .pla | .plp => false
  | .tax | .tay | .txa | .tya | .tsx | .txs => false
  | .sec | .clc | .sei | .cli | .sed | .cld | .clv | .nop | .ill _ => false

end Sys2Proof

namespace Sys2Proof.Machine

/-- Z and N tell of a result byte: Z that it is zero, N its bit 7 (10_state.md R28). -/
def State.ZNOf (t : State) (v : Byte) : Prop := t.flag .z = decide (v = 0x00) ∧ t.flag .n = v.getLsbD 7

/-- The entry of BRK, `irq()` or `nmi()` from `s` to `t`: `ret`, high byte first, and `status` on the stack, SP down by 3, I
set when `P_INT_SETS_I` says so, PC the little-endian value at the vector, nothing else changed (60_exceptions.md R203 to
R207, 49_moves_control.md R162). -/
structure Entered (p : Params) (vector ret : Word) (status : Byte) (s t : State) : Prop where
  sp : t.sp = s.sp - 3
  retHigh : (t.read (stackSlot s.sp)).toNat = ret.toNat / 256
  retLow : (t.read (stackSlot (s.sp - 1))).toNat = ret.toNat % 256
  status : t.read (stackSlot (s.sp - 2)) = status
  mask : t.flag .i = (p.intSetsI || s.flag .i)
  target : t.pc.toNat = (s.read (vector + 1)).toNat * 256 + (s.read vector).toNat
  frame : Frame [.sp] [.i] [stackSlot s.sp, stackSlot (s.sp - 1), stackSlot (s.sp - 2)] s t

end Sys2Proof.Machine
end

