-- ==== Sys2Proof/Certificates/Slice0/Obligations.lean ====
section
/-! DEFINITION. The statements about the core, from the numbered rules of spec/. `exec i s` runs instruction `i` on a state
whose PC has already passed the instruction's bytes (40_arithmetic.md, template).

Wherever a statement speaks of these, it rests on the spec's own decisions of 92_eei_decisions.md: opcode bytes (D31) and the
stub's length (D16); the stack page, the order of pushes and pulls, the wrap of SP (D1, D2, D24); the vectors (D3); the wrap
and carry of 16-bit sums (D4, D5, D25). The canonical form of memory (log entry 12) and well-formedness of terms (log entry
10) are the model's own. -/

open Sys2Proof Sys2Proof.Machine

namespace Sys2Proof.Machine

/-- The shape of AND, ORA, EOR: the result in A is `f` bit by bit, Z and N tell of it, nothing else changes. -/
def BitwiseIntoA (i : ReadOperand → Instr) (f : Bool → Bool → Bool) : Prop :=
  ∀ (o : ReadOperand) (s : State), ∃ t, exec (i o) s = .next t ∧
    (∀ k, k < 8 → t.a.getLsbD k = f (s.a.getLsbD k) ((s.operand o).getLsbD k)) ∧
    t.ZNOf t.a ∧ t.pc = s.pc ∧ Frame [.a] [.z, .n] [] s t

/-- The shape of the shifts on A and on a memory byte: the result is `r` of the old byte and the old carry, C is `c` of the
old byte, Z and N tell of the result, nothing else changes. -/
def ShiftsBy (i : RmwOperand → Instr) (r : Nat → Nat → Nat) (c : Nat → Bool) : Prop :=
  ∀ s : State,
    (∃ t, exec (i .acc) s = .next t ∧
      t.a.toNat = r s.a.toNat (s.flag .c).toNat ∧ t.flag .c = c s.a.toNat ∧
      t.ZNOf t.a ∧ t.pc = s.pc ∧ Frame [.a] [.c, .z, .n] [] s t) ∧
    ∀ m : MemOperand, ∃ t, exec (i (.mem m)) s = .next t ∧
      (t.read (s.effAddr m)).toNat = r (s.read (s.effAddr m)).toNat (s.flag .c).toNat ∧
      t.flag .c = c (s.read (s.effAddr m)).toNat ∧
      t.ZNOf (t.read (s.effAddr m)) ∧ t.pc = s.pc ∧ Frame [] [.c, .z, .n] [s.effAddr m] s t

/-- The shape of CMP, CPX, CPY: flags from the unsigned subtraction of the operand from a register, nothing else. -/
def ComparesReg (i : ReadOperand → Instr) (r : Reg) : Prop :=
  ∀ (o : ReadOperand) (s : State), ∃ t, exec (i o) s = .next t ∧
    t.flag .c = decide ((s.operand o).toNat ≤ (s.reg r).toNat) ∧
    t.flag .z = decide (s.reg r = s.operand o) ∧
    t.flag .n = decide (128 ≤ ((s.reg r).toNat + 256 - (s.operand o).toNat) % 256) ∧
    t.pc = s.pc ∧ Frame [] [.c, .z, .n] [] s t

/-- The shape of INC and DEC: `k` is added to a memory byte modulo 256. -/
def AddsToMemory (i : MemOperand → Instr) (k : Nat) : Prop :=
  ∀ (m : MemOperand) (s : State), ∃ t, exec (i m) s = .next t ∧
    (t.read (s.effAddr m)).toNat = ((s.read (s.effAddr m)).toNat + k) % 256 ∧
    t.ZNOf (t.read (s.effAddr m)) ∧ t.pc = s.pc ∧ Frame [] [.z, .n] [s.effAddr m] s t

/-- The shape of INX, INY, DEX, DEY: `k` is added to a register modulo 256. -/
def AddsToReg (i : Instr) (r : Reg) (k : Nat) : Prop :=
  ∀ s : State, ∃ t, exec i s = .next t ∧
    (t.reg r).toNat = ((s.reg r).toNat + k) % 256 ∧
    t.ZNOf (t.reg r) ∧ t.pc = s.pc ∧ Frame [r] [.z, .n] [] s t

/-- The shape of the branches: PC moves by the signed offset, modulo 65536, exactly when the flag holds the value. -/
def BranchesOn (i : Byte → Instr) (f : Flag) (b : Bool) : Prop :=
  ∀ (off : Byte) (s : State), ∃ t, exec (i off) s = .next t ∧
    (s.flag f = b → (t.pc.toNat : Int) = ((s.pc.toNat : Int) + off.toInt) % 65536) ∧
    (s.flag f ≠ b → t.pc = s.pc) ∧ Frame [] [] [] s t

/-- The shape of the flag instructions: one bit of P, nothing else. -/
def WritesFlag (i : Instr) (f : Flag) (b : Bool) : Prop :=
  ∀ s : State, ∃ t, exec i s = .next t ∧ t.flag f = b ∧ t.pc = s.pc ∧ Frame [] [f] [] s t

/-- The shape of LDA, LDX, LDY: the operand byte into a register. -/
def LoadsReg (i : ReadOperand → Instr) (r : Reg) : Prop :=
  ∀ (o : ReadOperand) (s : State), ∃ t, exec (i o) s = .next t ∧
    t.reg r = s.operand o ∧ t.ZNOf (s.operand o) ∧ t.pc = s.pc ∧ Frame [r] [.z, .n] [] s t

/-- The shape of STA, STX, STY: a register into the byte at the effective address. -/
def StoresReg (i : MemOperand → Instr) (r : Reg) : Prop :=
  ∀ (m : MemOperand) (s : State), ∃ t, exec (i m) s = .next t ∧
    t.read (s.effAddr m) = s.reg r ∧ t.pc = s.pc ∧ Frame [] [] [s.effAddr m] s t

/-- The shape of the transfers that set Z and N. -/
def Transfers (i : Instr) (src dst : Reg) : Prop :=
  ∀ s : State, ∃ t, exec i s = .next t ∧
    t.reg dst = s.reg src ∧ t.ZNOf (s.reg src) ∧ t.pc = s.pc ∧ Frame [dst] [.z, .n] [] s t

/-- The shape of PHA and PHP: a byte to the stack slot at SP, SP down by one. -/
def PushesByte (i : Instr) (v : State → Byte) : Prop :=
  ∀ s : State, ∃ t, exec i s = .next t ∧ (stackSlot s.sp).toNat = 0x0100 + s.sp.toNat ∧
    t.read (stackSlot s.sp) = v s ∧ t.sp.toNat = (s.sp.toNat + 255) % 256 ∧
    t.pc = s.pc ∧ Frame [.sp] [] [stackSlot s.sp] s t

/-- What JSR does under given parameters (46_jumps_calls.md R121, R122). -/
def Called (p : Params) (target : Word) (s t : State) : Prop :=
  let ret : Word := if p.retConv = .nmos then s.pc - 1 else s.pc
  t.pc = target ∧ t.sp = s.sp - 2 ∧
  (t.read (stackSlot s.sp)).toNat = ret.toNat / 256 ∧
  (t.read (stackSlot (s.sp - 1))).toNat = ret.toNat % 256 ∧
  Frame [.sp] [] [stackSlot s.sp, stackSlot (s.sp - 1)] s t

/-- What RTS does under given parameters (46_jumps_calls.md R121, R123). -/
def Returned (p : Params) (s t : State) : Prop :=
  t.pc.toNat =
    ((s.read (stackSlot (s.sp + 2))).toNat * 256 + (s.read (stackSlot (s.sp + 1))).toNat +
      (if p.retConv = .nmos then 1 else 0)) % 65536 ∧
  t.sp = s.sp + 2 ∧ Frame [.sp] [] [] s t

end Sys2Proof.Machine

/-! ## Encoding and decoding -/

/-- Decoding what the encoder writes gives the instruction back and leaves the rest (30_encoding.md R42, R50 to R53). -/
def Obligations.DecodeOfEncodeIsInstr : Prop :=
  ∀ (i : Instr) (bs rest : List Byte), encode i = some bs → decode (bs ++ rest) = .ok (i, rest)

/-- Encoding what the decoder read gives back the bytes it consumed: no byte string has two meanings. -/
def Obligations.EncodeOfDecodeIsConsumedBytes : Prop :=
  ∀ (bs rest : List Byte) (i : Instr), decode bs = .ok (i, rest) →
    ∃ used, encode i = some used ∧ bs = used ++ rest

/-- The well-formed instructions are exactly those with an encoding, and the decoder gives no other (30_encoding.md R52, R53). -/
def Obligations.WellFormedExactlyWhenEncodable : Prop :=
  (∀ i : Instr, i.wf = true ↔ ∃ bs, encode i = some bs) ∧ ∀ op b1 b2 : Byte, (decodeBytes op b1 b2).wf = true

/-- R54: decoding is total on any opcode byte and any operand bytes. -/
def Obligations.EveryByteStringDecodes : Prop :=
  ∀ (op b1 b2 : Byte) (rest : List Byte), ∃ i left, decode (op :: b1 :: b2 :: rest) = .ok (i, left)

/-- R42: the mode and the length come from the opcode byte alone, the operand bytes follow it in order (a 16-bit operand's
low byte first), and there are 0, 1 or 2 of them by mode. -/
def Obligations.LengthFromOpcodeAlone : Prop :=
  ∀ op b1 b2 c1 c2 : Byte,
    let i := decodeBytes op b1 b2
    i.mode = (decodeBytes op c1 c2).mode ∧ i.operandBytes = [b1, b2].take (i.length - 1) ∧
    i.length =
      (match i.mode with
      | .accumulator | .implied => 1
      | .immediate | .zeroPage | .zeroPageX | .zeroPageY | .indirectX | .indirectY | .relative => 2
      | .absolute | .absoluteX | .absoluteY | .indirect => 3)

/-- R53: an opcode byte decodes to the stub exactly when it is one of the 105 unassigned ones, and the stub is one byte long
(the length is the spec's own decision D16). -/
def Obligations.UnassignedOpcodesAreIll : Prop :=
  (∀ op b1 b2 : Byte, decodeBytes op b1 b2 = .ill op ↔ op ∈ unassignedOpcodes) ∧
  unassignedOpcodes.length = 105 ∧ ∀ op : Byte, (Instr.ill op).length = 1

/-- Words written out from 30_encoding.md R51: one of each addressing mode. -/
def Obligations.SampleWordsDecode : Prop :=
  decodeBytes 0x0A 0xFF 0xFF = .asl .acc ∧ decodeBytes 0xEA 0xFF 0xFF = .nop ∧
  decodeBytes 0x69 0x50 0xFF = .adc (.imm 0x50) ∧ decodeBytes 0x24 0x10 0xFF = .bit (.zp 0x10) ∧
  decodeBytes 0xF6 0x10 0xFF = .inc (.zpX 0x10) ∧ decodeBytes 0xB6 0xF0 0xFF = .ldx (.mem (.zpY 0xF0)) ∧
  decodeBytes 0x8D 0x34 0x12 = .sta (.abs 0x1234) ∧ decodeBytes 0x5E 0x00 0x03 = .lsr (.mem (.absX 0x0300)) ∧
  decodeBytes 0xB9 0xF0 0x12 = .lda (.mem (.absY 0x12F0)) ∧ decodeBytes 0x6C 0xFF 0x01 = .jmp (.ind 0x01FF) ∧
  decodeBytes 0xC1 0x40 0xFF = .cmp (.mem (.indX 0x40)) ∧ decodeBytes 0x91 0x20 0xFF = .sta (.indY 0x20) ∧
  decodeBytes 0xD0 0xF8 0xFF = .bne 0xF8 ∧ decodeBytes 0x20 0x00 0x20 = .jsr 0x2000 ∧
  decodeBytes 0x00 0xFF 0xFF = .brk ∧ decodeBytes 0x02 0xFF 0xFF = .ill 0x02

/-! ## The step -/

/-- R44: when the bytes at PC (modulo 65536) decode to `i`, a step is `exec i` on the state with `opcode` the byte at PC and
PC past the instruction. -/
def Obligations.StepRunsDecodedInstr : Prop :=
  ∀ (s : State) (i : Instr) (rest : List Byte),
    decode [s.read s.pc, s.read (s.pc + 1), s.read (s.pc + 2)] = .ok (i, rest) →
    step s = exec i { s with opcode := s.read s.pc, pc := s.pc + BitVec.ofNat 16 i.length }

/-- R11: every step, from every state, has a next state. -/
def Obligations.EveryStepHasNextState : Prop := ∀ s : State, ∃ t, step s = .next t

/-- R30: a step leaves in `opcode` the byte fetched, and what `opcode` held before changes nothing. -/
def Obligations.StepRecordsOpcode : Prop :=
  (∀ s t : State, step s = .next t → t.opcode = s.read s.pc) ∧
  ∀ (s : State) (v : Byte), step { s with opcode := v } = step s

/-- R24: a step moves PC past the instruction and no further, except for a branch, JMP, JSR, RTS, RTI or BRK. The wrap past
0xFFFF is the spec's own decision D4. -/
def Obligations.StepAdvancesPcByLength : Prop :=
  ∀ s t : State, step s = .next t → s.fetchInstr.writesPC = false →
    t.pc.toNat = (s.pc.toNat + s.fetchInstr.length) % 65536

/-- R49: the operand byte of an instruction fetched in Immediate mode is the byte after the opcode. -/
def Obligations.ImmediateIsByteAfterOpcode : Prop :=
  ∀ s : State, s.fetchInstr.mode = .immediate → s.fetchInstr.operandBytes = [s.read (s.pc + 1)]

/-- R39: an opcode byte just stored by STA is what the next step fetches, when PC stands at it. -/
def Obligations.StoreSeenByNextFetch : Prop :=
  ∀ (m : MemOperand) (s t : State), exec (.sta m) s = .next t → t.pc = s.effAddr m →
    ∃ b1 b2, step t = exec (decodeBytes s.a b1 b2) (t.consume (decodeBytes s.a b1 b2))

/-- R44 (f), R50, R225: a step returns the base count of its opcode, `P_ILLEGAL_CYCLES` for the stub and `P_CYCLES` for the
rest, with nothing added for a page cross or a taken branch. -/
def Obligations.StepReturnsBaseCycles : Prop :=
  ∀ (p : Params) (s : State),
    s.stepCycles p =
      (match s.fetchInstr with
      | .ill op => p.illegalCycles op
      | _ => p.cycles (s.read s.pc))

/-- R8: `exec` and `step` are the machine at the parameter values `params` of the model. -/
def Obligations.StepIsTheMachineAtParams : Prop :=
  (∀ (i : Instr) (s : State), execWith params i s = exec i s) ∧ ∀ s : State, stepWith params s = step s

/-! ## Invariants and whole-machine rules -/

/-- Memory stays in canonical form across any step from any state that has it so. -/
def Obligations.StepKeepsMemoryCanonical : Prop :=
  ∀ s t : State, s.Inv → step s = .next t → t.Inv

/-- Memory is in canonical form at reset. -/
def Obligations.ResetMemoryCanonical : Prop := State.reset.Inv

/-- Memory stays in canonical form across any run of host operations, under any parameters. -/
def Obligations.HostRunKeepsMemoryCanonical : Prop :=
  ∀ (p : Params) (ops : List HostOp) (s t : State), s.Inv → runOps p ops s = .next t → t.Inv

/-- R11, R200, R210: any sequence of host operations, from any state, runs to its end. -/
def Obligations.HostRunNeverStops : Prop :=
  ∀ (p : Params) (ops : List HostOp) (s : State), ∃ t, runOps p ops s = .next t

/-- Two canonical memories that read the same at all 65,536 addresses are the same (the model's form of 10_state.md R20's
`memory : u16 -> u8`, log entry 12). -/
def Obligations.CanonicalMemoryIsItsBytes : Prop :=
  ∀ m m' : Memory, m.wf = true → m'.wf = true →
    (∀ a : Word, Memory.byteAt m a.toNat = Memory.byteAt m' a.toNat) → m = m'

/-- R22, R23, R25: each of A, X, Y, SP changes only by the instructions the spec lists as its writers. -/
def Obligations.RegistersWrittenOnlyByTheirWriters : Prop :=
  ∀ (i : Instr) (s t : State) (r : Reg), exec i s = .next t → r ∉ i.regsWritten → t.reg r = s.reg r

/-- R29: a flag outside an instruction's row of the table keeps its value. -/
def Obligations.FlagsWrittenOnlyAsInTable : Prop :=
  ∀ (i : Instr) (s t : State) (f : Flag), exec i s = .next t → f ∉ i.flagsWritten → t.flag f = s.flag f

/-- R35, R37: every byte outside an instruction's store target and pushed stack slots keeps its value. -/
def Obligations.MemoryChangesOnlyAtStoreTargets : Prop :=
  ∀ (i : Instr) (s t : State) (addr : Word), exec i s = .next t → addr ∉ i.storedTo s → t.read addr = s.read addr

/-- R27, R63 (the spec's own decision D9): what D holds changes nothing but D itself, for every instruction that does not
copy P to the stack. -/
def Obligations.DecimalFlagInfluencesNothing : Prop :=
  ∀ (i : Instr) (s t : State) (b : Bool), i ≠ .php → i ≠ .brk → exec i s = .next t →
    ∃ t', exec i (s.setFlag .d b) = .next t' ∧
      (∀ r, t'.reg r = t.reg r) ∧ (∀ f, f ≠ .d → t'.flag f = t.flag f) ∧
      t'.pc = t.pc ∧ t'.opcode = t.opcode ∧ t'.mem = t.mem

/-! ## Arithmetic, logic, shifts, compares, increments -/

/-- R60, R61, R63: the 9-bit add of A, the operand and C: result byte, carry, overflow (as the formula, as the sign rule, and
as the signed range); Z and N tell of the result; everything else stays. That it holds whatever D is rests on the spec's own
decision D9 (log entry 16). -/
def Obligations.AdcAddsWithCarry : Prop :=
  ∀ (o : ReadOperand) (s : State),
    let m := s.operand o
    let sum := s.a.toNat + m.toNat + (s.flag .c).toNat
    let signed := s.a.toInt + m.toInt + ((s.flag .c).toNat : Int)
    ∃ t, exec (.adc o) s = .next t ∧
      t.a.toNat = sum % 256 ∧ t.flag .c = decide (256 ≤ sum) ∧
      t.flag .v = ((s.a ^^^ t.a) &&& (m ^^^ t.a)).getLsbD 7 ∧
      t.flag .v = decide (s.a.getLsbD 7 = m.getLsbD 7 ∧ t.a.getLsbD 7 ≠ s.a.getLsbD 7) ∧
      t.flag .v = decide (signed < -128 ∨ 127 < signed) ∧
      t.ZNOf t.a ∧ t.pc = s.pc ∧ Frame [.a] [.c, .v, .z, .n] [] s t

/-- R62, R63 (the spec's own decisions D8 and, whatever D is, D9): SBC in the integers. C = 1 means no borrow. -/
def Obligations.SbcSubtractsWithBorrow : Prop :=
  ∀ (o : ReadOperand) (s : State),
    let m := s.operand o
    let diff : Int := (s.a.toNat : Int) - (m.toNat : Int) - (1 - ((s.flag .c).toNat : Int))
    ∃ t, exec (.sbc o) s = .next t ∧
      (t.a.toNat : Int) = diff % 256 ∧ t.flag .c = decide (0 ≤ diff) ∧
      t.flag .v = decide (s.a.getLsbD 7 ≠ m.getLsbD 7 ∧ t.a.getLsbD 7 ≠ s.a.getLsbD 7) ∧
      t.ZNOf t.a ∧ t.pc = s.pc ∧ Frame [.a] [.c, .v, .z, .n] [] s t

/-- R70, R71, R72 (Z and N: the spec's own decision D7). -/
def Obligations.LogicOpsActBitByBit : Prop :=
  BitwiseIntoA .and (fun a m => a && m) ∧ BitwiseIntoA .ora (fun a m => a || m) ∧ BitwiseIntoA .eor (fun a m => a != m)

/-- R73: Z from `A & m`, N and V from bits 7 and 6 of memory, A and memory not written. -/
def Obligations.BitTestsMemory : Prop :=
  ∀ (m : MemOperand) (s : State),
    let v := s.read (s.effAddr m)
    ∃ t, exec (.bit m) s = .next t ∧
      (t.flag .z = true ↔ ∀ k, k < 8 → ¬(s.a.getLsbD k = true ∧ v.getLsbD k = true)) ∧
      t.flag .n = v.getLsbD 7 ∧ t.flag .v = v.getLsbD 6 ∧ t.pc = s.pc ∧ Frame [] [.z, .n, .v] [] s t

/-- R80, R81 (Z and N: the spec's own decision D7): ASL doubles modulo 256, LSR halves, C is the bit moved out. -/
def Obligations.ShiftsMoveOneBit : Prop :=
  ShiftsBy .asl (fun v _ => 2 * v % 256) (fun v => decide (128 ≤ v)) ∧
  ShiftsBy .lsr (fun v _ => v / 2) (fun v => decide (v % 2 = 1))

/-- R82, R83 (Z and N: the spec's own decision D7): the old carry enters the vacated bit, C is the bit moved out. -/
def Obligations.RotatesMoveThroughCarry : Prop :=
  ShiftsBy .rol (fun v c => 2 * v % 256 + c) (fun v => decide (128 ≤ v)) ∧
  ShiftsBy .ror (fun v c => 128 * c + v / 2) (fun v => decide (v % 2 = 1))

/-- R82, corner case: nine successive ROLs of A restore A and C. -/
def Obligations.NineRotatesRestore : Prop :=
  ∀ s : State, ∃ t, runInstrs (List.replicate 9 (.rol .acc)) s = .next t ∧
    t.a = s.a ∧ t.flag .c = s.flag .c ∧ t.pc = s.pc ∧ Frame [] [.z, .n] [] s t

/-- R90: Compare writes C, Z and N from the unsigned subtraction and nothing else; for CMP, CPX and CPY. -/
def Obligations.ComparesSetFlagsOnly : Prop :=
  ComparesReg .cmp .a ∧ ComparesReg .cpx .x ∧ ComparesReg .cpy .y

/-- R100, R101: INC and DEC of a memory byte, modulo 256. -/
def Obligations.IncDecMemoryByte : Prop := AddsToMemory .inc 1 ∧ AddsToMemory .dec 255

/-- R102 to R105: INX, INY, DEX, DEY, modulo 256. -/
def Obligations.IncDecIndexRegisters : Prop :=
  AddsToReg .inx .x 1 ∧ AddsToReg .iny .y 1 ∧ AddsToReg .dex .x 255 ∧ AddsToReg .dey .y 255

/-! ## Branches, jumps, calls, returns -/

/-- R110 to R118, R48 (the base of the target is the spec's own decision D6). -/
def Obligations.BranchesTakenExactlyOnFlag : Prop :=
  BranchesOn .bcc .c false ∧ BranchesOn .bcs .c true ∧ BranchesOn .beq .z true ∧ BranchesOn .bne .z false ∧
  BranchesOn .bmi .n true ∧ BranchesOn .bpl .n false ∧ BranchesOn .bvc .v false ∧ BranchesOn .bvs .v true

/-- R55, R48: the offset the assembler stores for a label within -128..127 of the next instruction takes a branch there. -/
def Obligations.AssembledBranchReachesLabel : Prop :=
  ∀ (addr label : Word) (s : State),
    -128 ≤ (label - (addr + 2)).toInt → (label - (addr + 2)).toInt ≤ 127 → s.pc = addr + 2 → s.flag .z = false →
    ∃ t, exec (.bne (branchOffset addr label)) s = .next t ∧ t.pc = label

/-- R120, R47: JMP Absolute goes to the operand; JMP Indirect to the little-endian value at the pointer, whose high byte is
taken from the pointer's own page. -/
def Obligations.JmpGoesToTarget : Prop :=
  (∀ (a : Word) (s : State), ∃ t, exec (.jmp (.abs a)) s = .next t ∧ t.pc = a ∧ Frame [] [] [] s t) ∧
  ∀ (ptr : Word) (s : State), ∃ t, exec (.jmp (.ind ptr)) s = .next t ∧
    t.pc.toNat =
      (s.read (BitVec.ofNat 16 (ptr.toNat / 256 * 256 + (ptr.toNat + 1) % 256))).toNat * 256 + (s.read ptr).toNat ∧
    Frame [] [] [] s t

/-- R121, R122 (the values of P_RET_CONV: the spec's own decision D10): JSR, at the model's parameters and at every other. -/
def Obligations.JsrPushesReturnAddress : Prop :=
  ∀ (target : Word) (s : State),
    (∃ t, exec (.jsr target) s = .next t ∧ Called params target s t) ∧
    ∀ p : Params, ∃ t, execWith p (.jsr target) s = .next t ∧ Called p target s t

/-- R121, R123 (the spec's own decision D10): RTS, at the model's parameters and at every other. -/
def Obligations.RtsPullsReturnAddress : Prop :=
  ∀ s : State,
    (∃ t, exec .rts s = .next t ∧ Returned params s t) ∧
    ∀ p : Params, ∃ t, execWith p .rts s = .next t ∧ Returned p s t

/-- R121, R124: whichever convention, an RTS that finds SP and the two pushed bytes as JSR left them comes back to the
instruction after the JSR, with SP as before it. -/
def Obligations.CallThenReturnComesBack : Prop :=
  ∀ (p : Params) (target : Word) (s t t' : State), execWith p (.jsr target) s = .next t → t'.sp = t.sp →
    (∀ addr, addr ∈ [stackSlot s.sp, stackSlot (s.sp - 1)] → t'.read addr = t.read addr) →
    ∃ u, execWith p .rts t' = .next u ∧ u.pc = s.pc ∧ u.sp = s.sp ∧ Frame [.sp] [] [] t' u

/-- R125 (the spec's own decision D13): RTI pulls all of P, then PC with nothing added. -/
def Obligations.RtiRestoresStatusAndPc : Prop :=
  ∀ s : State, ∃ t, exec .rti s = .next t ∧
    t.p = s.read (stackSlot (s.sp + 1)) ∧
    t.pc.toNat = (s.read (stackSlot (s.sp + 3))).toNat * 256 + (s.read (stackSlot (s.sp + 2))).toNat ∧
    t.sp = s.sp + 3 ∧ Frame [.sp] allFlags [] s t

/-- R203 to R207, R209, R162: after an `nmi()`, a taken `irq()` or a BRK, an RTI that finds SP and the three pushed bytes as
the entry left them resumes at the saved PC with SP as before; P is the pushed copy. What is pushed and pulled rests on the
spec's own decisions D1, D2, D11, D12 and D13. -/
def Obligations.RtiResumesAfterEntry : Prop :=
  ∀ (p : Params) (s t t' : State) (ret : Word) (status : Byte),
    (t = s.nmi p ∧ ret = s.pc ∧ status = (s.p &&& 0xEF) ||| 0x20 ∨
      s.flag .i = false ∧ t = s.irq p ∧ ret = s.pc ∧ status = (s.p &&& 0xEF) ||| 0x20 ∨
      execWith p .brk s = .next t ∧ ret = (if p.brkSkip then s.pc + 1 else s.pc) ∧ status = s.p ||| 0x30) →
    t'.sp = t.sp →
    (∀ addr, addr ∈ [stackSlot s.sp, stackSlot (s.sp - 1), stackSlot (s.sp - 2)] → t'.read addr = t.read addr) →
    ∃ u, exec .rti t' = .next u ∧ u.pc = ret ∧ u.sp = s.sp ∧ u.p = status ∧ Frame [.sp] allFlags [] t' u

/-! ## Stack, flags, loads, stores, transfers, control -/

/-- R130, R131, R37 (the slot and the order: the spec's own decisions D1, D2; B and U of PHP's copy: D12). -/
def Obligations.PhaPhpPushOneByte : Prop :=
  PushesByte .pha (fun s => s.a) ∧ PushesByte .php (fun s => s.p ||| 0x30)

/-- R132, R133, R38 (the order: the spec's own decision D2): PLA with Z and N of the pulled byte, PLP all eight bits. -/
def Obligations.PlaPlpPullOneByte : Prop :=
  (∀ s : State, ∃ t, exec .pla s = .next t ∧ t.a = s.read (stackSlot (s.sp + 1)) ∧ t.ZNOf t.a ∧
    t.sp.toNat = (s.sp.toNat + 1) % 256 ∧ t.pc = s.pc ∧ Frame [.a, .sp] [.z, .n] [] s t) ∧
  ∀ s : State, ∃ t, exec .plp s = .next t ∧ t.p = s.read (stackSlot (s.sp + 1)) ∧
    t.sp.toNat = (s.sp.toNat + 1) % 256 ∧ t.pc = s.pc ∧ Frame [.sp] allFlags [] s t

/-- R132, corner case: PHA, a load of anything, PLA restores A, with Z and N of the restored value. -/
def Obligations.PhaThenPlaRestoresA : Prop :=
  ∀ (o : ReadOperand) (s : State), ∃ t, runInstrs [.pha, .lda o, .pla] s = .next t ∧
    t.a = s.a ∧ t.ZNOf s.a ∧ t.sp = s.sp ∧ t.pc = s.pc ∧ Frame [] [.z, .n] [stackSlot s.sp] s t

/-- R140 to R146. -/
def Obligations.FlagInstrsWriteOneBit : Prop :=
  WritesFlag .sec .c true ∧ WritesFlag .clc .c false ∧ WritesFlag .sei .i true ∧ WritesFlag .cli .i false ∧
  WritesFlag .sed .d true ∧ WritesFlag .cld .d false ∧ WritesFlag .clv .v false

/-- R150, R151, R152. -/
def Obligations.LoadsReadOperand : Prop := LoadsReg .lda .a ∧ LoadsReg .ldx .x ∧ LoadsReg .ldy .y

/-- R153, R154, R155: no flag changes. -/
def Obligations.StoresWriteOneByte : Prop := StoresReg .sta .a ∧ StoresReg .stx .x ∧ StoresReg .sty .y

/-- R45, R46: the effective address of each mode, in the integers (the wrap past 0xFFFF and of the Indirect,Y pointer: the
spec's own decisions D4, D5). -/
def Obligations.EffectiveAddresses : Prop :=
  ∀ (s : State) (z : Byte) (a : Word),
    let byte (n : Nat) : Nat := (s.read (BitVec.ofNat 16 n)).toNat
    (s.effAddr (.zp z)).toNat = z.toNat ∧
    (s.effAddr (.zpX z)).toNat = (z.toNat + s.x.toNat) % 256 ∧
    (s.effAddr (.zpY z)).toNat = (z.toNat + s.y.toNat) % 256 ∧
    s.effAddr (.abs a) = a ∧
    (s.effAddr (.absX a)).toNat = (a.toNat + s.x.toNat) % 65536 ∧
    (s.effAddr (.absY a)).toNat = (a.toNat + s.y.toNat) % 65536 ∧
    (s.effAddr (.indX z)).toNat =
      byte ((z.toNat + s.x.toNat + 1) % 256) * 256 + byte ((z.toNat + s.x.toNat) % 256) ∧
    (s.effAddr (.indY z)).toNat = (byte ((z.toNat + 1) % 256) * 256 + byte z.toNat + s.y.toNat) % 65536

/-- R156 to R161: five transfers set Z and N, TXS sets no flag. -/
def Obligations.TransfersCopyRegister : Prop :=
  Transfers .tax .a .x ∧ Transfers .tay .a .y ∧ Transfers .txa .x .a ∧ Transfers .tya .y .a ∧ Transfers .tsx .sp .x ∧
  ∀ s : State, ∃ t, exec .txs s = .next t ∧ t.sp = s.x ∧ t.pc = s.pc ∧ Frame [.sp] [] [] s t

/-- R162 (the spec's own decisions D3, D11, D12, D14, D15): BRK, at the model's parameters and at every other; I does not
mask it. -/
def Obligations.BrkEntersHandler : Prop :=
  ∀ s : State,
    (∃ t, exec .brk s = .next t ∧
      Entered params 0xFFFE (if params.brkSkip then s.pc + 1 else s.pc) (s.p ||| 0x30) s t) ∧
    ∀ p : Params, ∃ t, execWith p .brk s = .next t ∧
      Entered p 0xFFFE (if p.brkSkip then s.pc + 1 else s.pc) (s.p ||| 0x30) s t

/-- R163, R164: NOP and the stub, whichever byte it carries, do nothing beyond what the step does: a step that fetches one
changes PC (by 1) and `opcode` only. -/
def Obligations.NopAndIllDoNothing : Prop :=
  (∀ s : State, exec .nop s = .next s) ∧ (∀ (op : Byte) (s : State), exec (.ill op) s = .next s) ∧
  ∀ (s : State) (op : Byte), s.fetchInstr = .nop ∨ s.fetchInstr = .ill op →
    step s = .next { s with pc := s.pc + 1, opcode := s.read s.pc }

/-! ## Interrupts, reset, memory -/

/-- R204, R203, R206 (the spec's own decisions D3, D12, D14): `irq()` changes nothing when I is set, else it enters. -/
def Obligations.IrqTakenExactlyWhenEnabled : Prop :=
  ∀ (p : Params) (s : State),
    (s.flag .i = true → s.irq p = s) ∧
    (s.flag .i = false → Entered p 0xFFFE s.pc ((s.p &&& 0xEF) ||| 0x20) s (s.irq p))

/-- R205, R203, R206 (the spec's own decisions D3, D12, D14): `nmi()` enters whatever I holds. -/
def Obligations.NmiAlwaysTaken : Prop :=
  ∀ (p : Params) (s : State), Entered p 0xFFFA s.pc ((s.p &&& 0xEF) ||| 0x20) s (s.nmi p)

/-- R208 (P_INT_SETS_I: the spec's own decision D14): `nmi()` then `irq()` loses the IRQ; `irq()` then `nmi()` enters both,
the NMI saving the IRQ handler's address. -/
def Obligations.InterruptOrder : Prop :=
  ∀ (p : Params) (s : State), p.intSetsI = true →
    (s.nmi p).irq p = s.nmi p ∧
    (s.flag .i = false →
      ((s.irq p).nmi p).sp = s.sp - 6 ∧
      (((s.irq p).nmi p).read (stackSlot (s.sp - 3))).toNat * 256 +
        (((s.irq p).nmi p).read (stackSlot (s.sp - 4))).toNat = (s.irq p).pc.toNat)

/-- R221 (the vector's address and `opcode`: the spec's own decisions D3, D20): `reset()` zeroes every register, takes PC from
the RESET vector and leaves memory as it was. -/
def Obligations.ResetOperationZeroesRegisters : Prop :=
  ∀ s : State, (∀ r, s.hostReset.reg r = 0x00) ∧ (∀ f, s.hostReset.flag f = false) ∧ s.hostReset.opcode = 0x00 ∧
    s.hostReset.pc.toNat = (s.read 0xFFFD).toNat * 256 + (s.read 0xFFFC).toNat ∧ s.hostReset.mem = s.mem

/-- R220: power-on leaves every register and every memory byte 0x00, does not read the RESET vector, and a step from it
executes the BRK at 0x0000. -/
def Obligations.PowerOnStateIsZero : Prop :=
  (∀ r, State.reset.reg r = 0x00) ∧ State.reset.p = 0x00 ∧ (∀ f, State.reset.flag f = false) ∧
  State.reset.pc = 0x0000 ∧ State.reset.opcode = 0x00 ∧ (∀ addr, State.reset.read addr = 0x00) ∧
  State.reset.fetchInstr = .brk
end

