-- ==== Sys2Proof/Laws/Bits.lean ====
section
/-! SUPPORT. Small laws of joined and split words, of the bits of P, and of stack slots. -/

namespace Sys2Proof

@[simp] theorem toNat_joinBytes (hi lo : Byte) : (joinBytes hi lo).toNat = hi.toNat * 256 + lo.toNat := by
  show (hi ++ lo).toNat = _
  have := lo.isLt
  rw [BitVec.toNat_append, ← Nat.shiftLeft_add_eq_or_of_lt this, Nat.shiftLeft_eq]

@[simp] theorem toNat_hiByte (w : Word) : (hiByte w).toNat = w.toNat / 256 := by
  have := w.isLt
  simp only [hiByte, BitVec.extractLsb'_toNat, Nat.shiftRight_eq_div_pow]
  omega

@[simp] theorem toNat_loByte (w : Word) : (loByte w).toNat = w.toNat % 256 := by
  simp [loByte, BitVec.extractLsb'_toNat]

@[simp] theorem toNat_zext16 (b : Byte) : (zext16 b).toNat = b.toNat := by
  have := b.isLt
  simp only [zext16, BitVec.toNat_setWidth]
  omega

@[simp] theorem joinBytes_hiByte_loByte (w : Word) : joinBytes (hiByte w) (loByte w) = w := by
  apply BitVec.eq_of_toNat_eq
  simp only [toNat_joinBytes, toNat_hiByte, toNat_loByte]
  omega

@[simp] theorem hiByte_joinBytes (hi lo : Byte) : hiByte (joinBytes hi lo) = hi := by
  apply BitVec.eq_of_toNat_eq
  have := lo.isLt
  simp only [toNat_joinBytes, toNat_hiByte]
  omega

@[simp] theorem loByte_joinBytes (hi lo : Byte) : loByte (joinBytes hi lo) = lo := by
  apply BitVec.eq_of_toNat_eq
  have := lo.isLt
  simp only [toNat_joinBytes, toNat_loByte]
  omega

@[simp] theorem toInt_sext16 (b : Byte) : (sext16 b).toInt = b.toInt := by
  simp [sext16, BitVec.toInt_signExtend_of_le]

namespace Machine

theorem Flag.bit_lt (f : Flag) : f.bit < 8 := by cases f <;> decide

theorem Flag.bit_inj {f g : Flag} : f.bit = g.bit ↔ f = g := by cases f <;> cases g <;> decide

theorem getLsbD_putFlag (p : Byte) (f : Flag) (b : Bool) (k : Nat) :
    (putFlag p f b).getLsbD k = if k = f.bit then b else p.getLsbD k := by
  have hf := f.bit_lt
  by_cases hk : k < 8
  · by_cases h : k = f.bit
    · subst h; cases b <;> simp [putFlag, Flag.mask, hf]
    · cases b <;> simp [putFlag, Flag.mask, hk, h]
  · have h1 : k ≠ f.bit := by omega
    simp [BitVec.getLsbD_of_ge _ _ (Nat.not_lt.mp hk), h1]

@[simp] theorem getFlag_putFlag (p : Byte) (f g : Flag) (b : Bool) :
    getFlag (putFlag p f b) g = if g = f then b else getFlag p g := by
  simp [getFlag, getLsbD_putFlag, Flag.bit_inj]

/-- Two status bytes with the same eight flags are equal. -/
theorem status_ext {p q : Byte} (h : ∀ f, getFlag p f = getFlag q f) : p = q := by
  apply BitVec.eq_of_getLsbD_eq
  intro k hk
  have := h
  match k, hk with
  | 0, _ => exact h .c
  | 1, _ => exact h .z
  | 2, _ => exact h .i
  | 3, _ => exact h .d
  | 4, _ => exact h .b
  | 5, _ => exact h .u
  | 6, _ => exact h .v
  | 7, _ => exact h .n

@[simp] theorem ne_pred (b : Byte) : (b = b - 1#8) = False := by
  have : b ≠ b - 1#8 := by bv_omega
  simpa using this

@[simp] theorem pred_ne (b : Byte) : (b - 1#8 = b) = False := by
  have : b - 1#8 ≠ b := by bv_omega
  simp

@[simp] theorem ne_pred_pred (b : Byte) : (b = b - 1#8 - 1#8) = False := by
  have : b ≠ b - 1#8 - 1#8 := by bv_omega
  simpa using this

@[simp] theorem pred_pred_ne (b : Byte) : (b - 1#8 - 1#8 = b) = False := by
  have : b - 1#8 - 1#8 ≠ b := by bv_omega
  simpa using this

@[simp] theorem toNat_stackSlot (sp : Byte) : (stackSlot sp).toNat = 256 + sp.toNat := by
  have := sp.isLt
  have hbase : stackBase.toNat = 256 := rfl
  simp only [stackSlot, BitVec.toNat_add, toNat_zext16, hbase]
  omega

@[simp] theorem stackSlot_inj {a b : Byte} : stackSlot a = stackSlot b ↔ a = b := by
  constructor
  · intro h
    have h' := congrArg BitVec.toNat h
    simp only [toNat_stackSlot] at h'
    exact BitVec.eq_of_toNat_eq (by omega)
  · rintro rfl; rfl

end Machine
end Sys2Proof
end

