-- ==== Sys2Proof/Laws/Memory.lean ====
section
/-! SUPPORT. Memory: a read after a write, and that every operation keeps the canonical form. -/

namespace Sys2Proof.Machine

theorem Memory.byteAt_unlist (m : Memory) (a b : Nat) :
    (m.unlist a).byteAt b = if b = a then Memory.cleared else m.byteAt b := by
  induction m with
  | nil => simp [Memory.unlist, Memory.byteAt]
  | cons c m ih =>
    obtain ⟨k, v⟩ := c
    by_cases hk : k = a
    · subst hk
      by_cases hb : b = k
      · subst hb; simpa [Memory.unlist] using ih
      · have : k ≠ b := fun h => hb h.symm
        simp [Memory.unlist, Memory.byteAt, ih, hb, this]
    · by_cases hb : k = b
      · subst hb; simp [Memory.unlist, Memory.byteAt, hk]
      · simp [Memory.unlist, Memory.byteAt, hk, hb, ih]

theorem Memory.byteAt_enlist (m : Memory) (a b : Nat) (v : Byte) (ha : m.unlist a = m) :
    (m.enlist a v).byteAt b = if b = a then v else m.byteAt b := by
  induction m with
  | nil => simp [Memory.enlist, Memory.byteAt, eq_comm]
  | cons c m ih =>
    obtain ⟨k, w⟩ := c
    by_cases hka : k = a
    · subst hka
      exfalso
      have hlen : ∀ l : Memory, (l.unlist k).length ≤ l.length := by
        intro l
        induction l with
        | nil => simp [Memory.unlist]
        | cons d l ihl => obtain ⟨j, u⟩ := d; simp only [Memory.unlist]; split <;> simp <;> omega
      have := congrArg List.length ha
      have h2 := hlen m
      simp [Memory.unlist] at this
      omega
    · have ha' : Memory.unlist m a = m := by simpa [Memory.unlist, hka] using ha
      by_cases hlt : a < k
      · by_cases hb : b = a
        · subst hb; simp [Memory.enlist, Memory.byteAt, hlt]
        · have : ¬ a = b := fun h => hb h.symm
          simp [Memory.enlist, Memory.byteAt, hlt, hb, this]
      · by_cases hb : k = b
        · subst hb; simp [Memory.enlist, Memory.byteAt, hlt, hka]
        · simp [Memory.enlist, Memory.byteAt, hlt, hb, ih ha']

theorem Memory.unlist_unlist (m : Memory) (a : Nat) : (m.unlist a).unlist a = m.unlist a := by
  induction m with
  | nil => rfl
  | cons c m ih => obtain ⟨k, v⟩ := c; by_cases h : k = a <;> simp [Memory.unlist, h, ih]

/-- The byte read after a write, for every memory, canonical or not. -/
theorem Memory.byteAt_put (m : Memory) (a b : Nat) (v : Byte) :
    (m.put a v).byteAt b = if b = a then v else m.byteAt b := by
  unfold Memory.put
  split
  · rename_i h; rw [Memory.byteAt_unlist, h]
  · rw [Memory.byteAt_enlist _ _ _ _ (Memory.unlist_unlist m a), Memory.byteAt_unlist]
    split <;> rfl

theorem Memory.wfFrom_mono {lo lo' : Nat} (h : lo' ≤ lo) : ∀ {m : Memory}, m.wfFrom lo = true → m.wfFrom lo' = true
  | [], _ => rfl
  | (k, v) :: m, hm => by
    simp only [Memory.wfFrom, Bool.and_eq_true, decide_eq_true_eq] at hm ⊢
    exact ⟨⟨⟨by omega, hm.1.1.2⟩, hm.1.2⟩, hm.2⟩

theorem Memory.wfFrom_unlist (a : Nat) : ∀ (m : Memory) (lo : Nat), m.wfFrom lo = true → (m.unlist a).wfFrom lo = true
  | [], _, _ => rfl
  | (k, v) :: m, lo, hm => by
    simp only [Memory.wfFrom, Bool.and_eq_true, decide_eq_true_eq] at hm
    have ih := Memory.wfFrom_unlist a m (k + 1) hm.2
    by_cases h : k = a
    · simp only [Memory.unlist, h, if_true]
      subst h
      exact Memory.wfFrom_mono (by omega) ih
    · simp only [Memory.unlist, h, if_false, Memory.wfFrom, Bool.and_eq_true, decide_eq_true_eq]
      exact ⟨hm.1, ih⟩

theorem Memory.wfFrom_enlist {a : Nat} {v : Byte} (hv : v ≠ Memory.cleared) (hs : a < Memory.size) :
    ∀ (m : Memory) (lo : Nat), lo ≤ a → m.wfFrom lo = true → m.unlist a = m → (m.enlist a v).wfFrom lo = true
  | [], lo, hlo, _, _ => by simp [Memory.enlist, Memory.wfFrom, hlo, hs, hv]
  | (k, w) :: m, lo, hlo, hm, ha => by
    simp only [Memory.wfFrom, Bool.and_eq_true, decide_eq_true_eq] at hm
    by_cases hka : k = a
    · exfalso
      have hnot := Memory.byteAt_unlist ((k, w) :: m) a a
      rw [ha] at hnot
      simp [Memory.byteAt, hka] at hnot
      exact hm.1.2 hnot
    · have ha' : Memory.unlist m a = m := by simpa [Memory.unlist, hka] using ha
      by_cases hlt : a < k
      · simp only [Memory.enlist, hlt, if_true, Memory.wfFrom, Bool.and_eq_true, decide_eq_true_eq]
        exact ⟨⟨⟨hlo, hs⟩, hv⟩, ⟨⟨⟨by omega, hm.1.1.2⟩, hm.1.2⟩, hm.2⟩⟩
      · simp only [Memory.enlist, hlt, if_false, Memory.wfFrom, Bool.and_eq_true, decide_eq_true_eq]
        exact ⟨hm.1, Memory.wfFrom_enlist hv hs m (k + 1) (by omega) hm.2 ha'⟩

/-- A write keeps the canonical form. -/
theorem Memory.wf_put {m : Memory} {a : Nat} (v : Byte) (ha : a < Memory.size) (h : m.wf = true) :
    (m.put a v).wf = true := by
  unfold Memory.put
  split
  · exact Memory.wfFrom_unlist a m 0 h
  · rename_i hv
    exact Memory.wfFrom_enlist hv ha _ 0 (Nat.zero_le a) (Memory.wfFrom_unlist a m 0 h) (Memory.unlist_unlist m a)

end Sys2Proof.Machine
end

