-- ==== Sys2Proof/Laws/Ops.lean ====
section
/-! SUPPORT. What each shared operation does, said once: the fields it keeps, and its value for the ones it writes. -/

namespace Sys2Proof.Machine

@[simp] theorem State.setZN_a (s : State) (v : Byte) : (s.setZN v).a = s.a := rfl
@[simp] theorem State.setZN_x (s : State) (v : Byte) : (s.setZN v).x = s.x := rfl
@[simp] theorem State.setZN_y (s : State) (v : Byte) : (s.setZN v).y = s.y := rfl
@[simp] theorem State.setZN_sp (s : State) (v : Byte) : (s.setZN v).sp = s.sp := rfl
@[simp] theorem State.setZN_pc (s : State) (v : Byte) : (s.setZN v).pc = s.pc := rfl
@[simp] theorem State.setZN_opcode (s : State) (v : Byte) : (s.setZN v).opcode = s.opcode := rfl
@[simp] theorem State.setZN_mem (s : State) (v : Byte) : (s.setZN v).mem = s.mem := rfl

@[simp] theorem State.compare_a (s : State) (r m : Byte) : (s.compare r m).a = s.a := rfl
@[simp] theorem State.compare_x (s : State) (r m : Byte) : (s.compare r m).x = s.x := rfl
@[simp] theorem State.compare_y (s : State) (r m : Byte) : (s.compare r m).y = s.y := rfl
@[simp] theorem State.compare_sp (s : State) (r m : Byte) : (s.compare r m).sp = s.sp := rfl
@[simp] theorem State.compare_pc (s : State) (r m : Byte) : (s.compare r m).pc = s.pc := rfl
@[simp] theorem State.compare_opcode (s : State) (r m : Byte) : (s.compare r m).opcode = s.opcode := rfl
@[simp] theorem State.compare_mem (s : State) (r m : Byte) : (s.compare r m).mem = s.mem := rfl

@[simp] theorem State.push_a (s : State) (v : Byte) : (s.push v).a = s.a := rfl
@[simp] theorem State.push_x (s : State) (v : Byte) : (s.push v).x = s.x := rfl
@[simp] theorem State.push_y (s : State) (v : Byte) : (s.push v).y = s.y := rfl
@[simp] theorem State.push_p (s : State) (v : Byte) : (s.push v).p = s.p := rfl
@[simp] theorem State.push_pc (s : State) (v : Byte) : (s.push v).pc = s.pc := rfl
@[simp] theorem State.push_opcode (s : State) (v : Byte) : (s.push v).opcode = s.opcode := rfl

@[simp] theorem State.push16_a (s : State) (v : Word) : (s.push16 v).a = s.a := rfl
@[simp] theorem State.push16_x (s : State) (v : Word) : (s.push16 v).x = s.x := rfl
@[simp] theorem State.push16_y (s : State) (v : Word) : (s.push16 v).y = s.y := rfl
@[simp] theorem State.push16_p (s : State) (v : Word) : (s.push16 v).p = s.p := rfl
@[simp] theorem State.push16_pc (s : State) (v : Word) : (s.push16 v).pc = s.pc := rfl
@[simp] theorem State.push16_opcode (s : State) (v : Word) : (s.push16 v).opcode = s.opcode := rfl

@[simp] theorem State.afterPull_a (s : State) : (s.afterPull).a = s.a := rfl
@[simp] theorem State.afterPull_x (s : State) : (s.afterPull).x = s.x := rfl
@[simp] theorem State.afterPull_y (s : State) : (s.afterPull).y = s.y := rfl
@[simp] theorem State.afterPull_p (s : State) : (s.afterPull).p = s.p := rfl
@[simp] theorem State.afterPull_pc (s : State) : (s.afterPull).pc = s.pc := rfl
@[simp] theorem State.afterPull_opcode (s : State) : (s.afterPull).opcode = s.opcode := rfl
@[simp] theorem State.afterPull_mem (s : State) : (s.afterPull).mem = s.mem := rfl

@[simp] theorem State.afterPull16_a (s : State) : (s.afterPull16).a = s.a := rfl
@[simp] theorem State.afterPull16_x (s : State) : (s.afterPull16).x = s.x := rfl
@[simp] theorem State.afterPull16_y (s : State) : (s.afterPull16).y = s.y := rfl
@[simp] theorem State.afterPull16_p (s : State) : (s.afterPull16).p = s.p := rfl
@[simp] theorem State.afterPull16_pc (s : State) : (s.afterPull16).pc = s.pc := rfl
@[simp] theorem State.afterPull16_opcode (s : State) : (s.afterPull16).opcode = s.opcode := rfl
@[simp] theorem State.afterPull16_mem (s : State) : (s.afterPull16).mem = s.mem := rfl

@[simp] theorem State.push_sp (s : State) (v : Byte) : (s.push v).sp = s.sp - 1 := rfl
@[simp] theorem State.push16_sp (s : State) (v : Word) : (s.push16 v).sp = s.sp - 1 - 1 := rfl
@[simp] theorem State.afterPull_sp (s : State) : s.afterPull.sp = s.sp + 1 := rfl
@[simp] theorem State.afterPull16_sp (s : State) : s.afterPull16.sp = s.sp + 1 + 1 := rfl

@[simp] theorem State.push_flag (s : State) (v : Byte) (f : Flag) : (s.push v).flag f = s.flag f := rfl
@[simp] theorem State.push16_flag (s : State) (v : Word) (f : Flag) : (s.push16 v).flag f = s.flag f := rfl
@[simp] theorem State.afterPull_flag (s : State) (f : Flag) : s.afterPull.flag f = s.flag f := rfl
@[simp] theorem State.afterPull16_flag (s : State) (f : Flag) : s.afterPull16.flag f = s.flag f := rfl
@[simp] theorem State.afterPull_read (s : State) (addr : Word) : s.afterPull.read addr = s.read addr := rfl
@[simp] theorem State.afterPull16_read (s : State) (addr : Word) : s.afterPull16.read addr = s.read addr := rfl
@[simp] theorem State.setZN_read (s : State) (v : Byte) (addr : Word) : (s.setZN v).read addr = s.read addr := rfl
@[simp] theorem State.compare_read (s : State) (r m : Byte) (addr : Word) : (s.compare r m).read addr = s.read addr := rfl

/-- SetZN, flag by flag (10_state.md R28). -/
@[simp] theorem State.setZN_flag (s : State) (v : Byte) (f : Flag) :
    (s.setZN v).flag f = if f = .n then v.msb else if f = .z then v == 0x00 else s.flag f := by
  simp [State.setZN]

/-- Compare, flag by flag (43_compare.md R90). -/
@[simp] theorem State.compare_flag (s : State) (r m : Byte) (f : Flag) :
    (s.compare r m).flag f =
      if f = .n then (r - m).msb else if f = .z then r == m else if f = .c then m.ule r else s.flag f := by
  simp [State.compare]

/-- Memory after a push (20_memory.md R37). -/
@[simp] theorem State.push_read (s : State) (v : Byte) (addr : Word) :
    (s.push v).read addr = if addr = stackSlot s.sp then v else s.read addr := by
  simp [State.push]

/-- Memory after a 16-bit push: the high byte at SP, the low byte below it (20_memory.md R37). -/
@[simp] theorem State.push16_read (s : State) (v : Word) (addr : Word) :
    (s.push16 v).read addr =
      if addr = stackSlot (s.sp - 1) then loByte v else if addr = stackSlot s.sp then hiByte v else s.read addr := by
  simp [State.push16]

/-- A pull right after a push gives the pushed byte back (20_memory.md R37, R38). -/
@[simp] theorem State.push_pulled (s : State) (v : Byte) : (s.push v).pulled = v := by
  simp [State.pulled]

/-- Two pulls right after a 16-bit push give the pushed value back. -/
@[simp] theorem State.push16_pulled16 (s : State) (v : Word) : (s.push16 v).pulled16 = v := by
  simp [State.pulled16, State.pulled]

/-- Interrupt entry, field by field (60_exceptions.md R203 to R206). -/
theorem State.enter_spec (p : Params) (vector : Word) (status : Byte) (s : State) :
    (s.enter p vector status).a = s.a ∧ (s.enter p vector status).x = s.x ∧ (s.enter p vector status).y = s.y ∧
    (s.enter p vector status).sp = s.sp - 1 - 1 - 1 ∧ (s.enter p vector status).opcode = s.opcode ∧
    (∀ f, (s.enter p vector status).flag f = if f = .i ∧ p.intSetsI = true then true else s.flag f) ∧
    (∀ addr, (s.enter p vector status).read addr = ((s.push16 s.pc).push status).read addr) ∧
    (s.enter p vector status).pc = ((s.push16 s.pc).push status).read16 vector := by
  unfold State.enter State.maskInterrupts State.read16
  cases p.intSetsI <;> simp

/-- Entry from BRK, `irq()` or `nmi()` keeps memory canonical. -/
theorem State.enter_mem_wf {s : State} (h : s.mem.wf = true) (p : Params) (vector : Word) (status : Byte) :
    (s.enter p vector status).mem.wf = true := by
  have := State.write_mem_wf (State.write_mem_wf (State.write_mem_wf h (stackSlot s.sp) (hiByte s.pc))
    (stackSlot (s.sp - 1)) (loByte s.pc)) (stackSlot (s.sp - 1 - 1)) status
  unfold State.enter State.maskInterrupts
  cases p.intSetsI <;> exact this

/-- A store through a location keeps memory canonical. -/
theorem State.setLoc_mem_wf {s : State} (h : s.mem.wf = true) (loc : Loc) (v : Byte) :
    (s.setLoc loc v).mem.wf = true := by
  cases loc with
  | acc => exact h
  | mem addr => exact State.write_mem_wf h addr v

end Sys2Proof.Machine
end

