-- ==== Sys2Proof/Laws/Addressing.lean ====
section
/-! SUPPORT. The effective address of each mode, that it depends on memory and the index registers only, and the parts of a
frame that follow from field equations. -/

namespace Sys2Proof.Machine

@[simp] theorem State.effAddr_zp (s : State) (z : Byte) : s.effAddr (.zp z) = zext16 z := rfl
@[simp] theorem State.effAddr_zpX (s : State) (z : Byte) : s.effAddr (.zpX z) = zext16 (z + s.x) := rfl
@[simp] theorem State.effAddr_zpY (s : State) (z : Byte) : s.effAddr (.zpY z) = zext16 (z + s.y) := rfl
@[simp] theorem State.effAddr_abs (s : State) (a : Word) : s.effAddr (.abs a) = a := rfl
@[simp] theorem State.effAddr_absX (s : State) (a : Word) : s.effAddr (.absX a) = a + zext16 s.x := rfl
@[simp] theorem State.effAddr_absY (s : State) (a : Word) : s.effAddr (.absY a) = a + zext16 s.y := rfl
@[simp] theorem State.effAddr_indX (s : State) (z : Byte) : s.effAddr (.indX z) = s.zeroPagePointer (z + s.x) := rfl
@[simp] theorem State.effAddr_indY (s : State) (z : Byte) :
    s.effAddr (.indY z) = s.zeroPagePointer z + zext16 s.y := rfl

@[simp] theorem State.operand_imm (s : State) (b : Byte) : s.operand (.imm b) = b := rfl
@[simp] theorem State.operand_mem (s : State) (m : MemOperand) : s.operand (.mem m) = s.read (s.effAddr m) := rfl

/-- An operand address depends on X, Y and memory only (30_encoding.md R40). -/
theorem State.effAddr_congr {s t : State} (hx : t.x = s.x) (hy : t.y = s.y) (hm : t.mem = s.mem) (m : MemOperand) :
    t.effAddr m = s.effAddr m := by
  cases m <;> simp [State.zeroPagePointer, State.read, hx, hy, hm]

/-- A read operand depends on X, Y and memory only (30_encoding.md R40). -/
theorem State.operand_congr {s t : State} (hx : t.x = s.x) (hy : t.y = s.y) (hm : t.mem = s.mem) (o : ReadOperand) :
    t.operand o = s.operand o := by
  cases o with
  | imm b => rfl
  | mem m => simp [State.effAddr_congr hx hy hm, State.read, hm]

/-- SetZN makes Z and N tell of its byte (10_state.md R28). -/
theorem State.setZN_ZNOf (s : State) (v : Byte) : (s.setZN v).ZNOf v := by
  have hz : (s.setZN v).flag .z = (v == 0x00) := State.setZN_flag s v .z
  exact ⟨hz.trans rfl, State.setZN_flag s v .n⟩

/-- A frame from its parts, register by register. -/
theorem Frame.of {rs : List Reg} {fs : List Flag} {addrs : List Word} {s t : State}
    (ha : .a ∉ rs → t.a = s.a) (hx : .x ∉ rs → t.x = s.x) (hy : .y ∉ rs → t.y = s.y) (hsp : .sp ∉ rs → t.sp = s.sp)
    (hf : ∀ f, f ∉ fs → t.flag f = s.flag f) (hm : ∀ addr, addr ∉ addrs → t.read addr = s.read addr)
    (ho : t.opcode = s.opcode) : Frame rs fs addrs s t :=
  ⟨fun r hr => by cases r; exacts [ha hr, hx hr, hy hr, hsp hr], hf, hm, ho⟩

end Sys2Proof.Machine
end

