-- ==== Sys2Proof/Laws/Decode.lean ====
section
/-! SUPPORT. The decoder and the encoder, piece by piece: how many bytes an operand has and which bytes they are. -/

namespace Sys2Proof

@[simp] theorem joinBytes_bytes (w : Word) : joinBytes (hiByte w) (loByte w) = w := by
  show hiByte w ++ loByte w = w
  apply BitVec.eq_of_getLsbD_eq
  intro k hk
  rw [BitVec.getLsbD_append]
  by_cases h : k < 8
  · simp [h, loByte]
  · have : k - 8 < 8 := by omega
    simp [h, hiByte, this, show 8 + (k - 8) = k by omega]

/-- A memory operand has as many bytes as its mode says (30_encoding.md R42). -/
theorem MemOperand.bytes_length (m : MemOperand) : m.bytes.length = m.mode.operandBytes := by cases m <;> rfl

/-- A read operand has as many bytes as its mode says. -/
theorem ReadOperand.bytes_length (o : ReadOperand) : o.bytes.length = o.mode.operandBytes := by
  cases o with
  | imm b => rfl
  | mem m => exact m.bytes_length

/-- A read-modify-write operand has as many bytes as its mode says. -/
theorem RmwOperand.bytes_length (o : RmwOperand) : o.bytes.length = o.mode.operandBytes := by
  cases o with
  | acc => rfl
  | mem m => exact m.bytes_length

/-- A jump operand has as many bytes as its mode says. -/
theorem JumpOperand.bytes_length (o : JumpOperand) : o.bytes.length = o.mode.operandBytes := by cases o <;> rfl

/-- An encoding is the opcode byte and the operand bytes. -/
theorem encode_eq_some {i : Instr} {bs : List Byte} :
    encode i = some bs ↔ ∃ op, i.opcode = some op ∧ bs = op :: i.operandBytes := by
  simp [encode, eq_comm]

/-- Decoding a list that holds the operand bytes after the opcode gives the instruction those bytes make. -/
theorem decode_cons (op : Byte) (rest : List Byte) :
    decode (op :: rest) =
      if rest.length < (decodeBytes op (rest.getD 0 0) (rest.getD 1 0)).mode.operandBytes then
        .error (.missingOperand op)
      else
        .ok (decodeBytes op (rest.getD 0 0) (rest.getD 1 0),
          rest.drop (decodeBytes op (rest.getD 0 0) (rest.getD 1 0)).mode.operandBytes) := rfl

end Sys2Proof
end

