-- ==== Sys2Proof/Laws/Exec.lean ====
section
/-! SUPPORT. What `exec` answers for each instruction, in terms of the shared operations, so that no proof unfolds the
dispatch. -/

namespace Sys2Proof.Machine

theorem exec_adc (o : ReadOperand) (s : State) : exec (.adc o) s = .next (s.addToA (s.operand o)) := rfl
theorem exec_sbc (o : ReadOperand) (s : State) : exec (.sbc o) s = .next (s.addToA (~~~s.operand o)) := rfl
theorem exec_and (o : ReadOperand) (s : State) : exec (.and o) s = .next (s.loadA (s.a &&& s.operand o)) := rfl
theorem exec_ora (o : ReadOperand) (s : State) : exec (.ora o) s = .next (s.loadA (s.a ||| s.operand o)) := rfl
theorem exec_eor (o : ReadOperand) (s : State) : exec (.eor o) s = .next (s.loadA (s.a ^^^ s.operand o)) := rfl
theorem exec_bit (m : MemOperand) (s : State) : exec (.bit m) s =
    .next (((s.setFlag .z ((s.a &&& s.read (s.effAddr m)) == 0x00)).setFlag .n ((s.read (s.effAddr m)).getLsbD 7)).setFlag .v ((s.read (s.effAddr m)).getLsbD 6)) := rfl
theorem exec_asl (o : RmwOperand) (s : State) : exec (.asl o) s =
    .next (s.putShifted (s.rmwLoc o) (aslResult (s.getLoc (s.rmwLoc o))) (leftCarry (s.getLoc (s.rmwLoc o)))) := rfl
theorem exec_lsr (o : RmwOperand) (s : State) : exec (.lsr o) s =
    .next (s.putShifted (s.rmwLoc o) (lsrResult (s.getLoc (s.rmwLoc o))) (rightCarry (s.getLoc (s.rmwLoc o)))) := rfl
theorem exec_rol (o : RmwOperand) (s : State) : exec (.rol o) s =
    .next (s.putShifted (s.rmwLoc o) (rolResult (s.getLoc (s.rmwLoc o)) (s.flag .c)) (leftCarry (s.getLoc (s.rmwLoc o)))) := rfl
theorem exec_ror (o : RmwOperand) (s : State) : exec (.ror o) s =
    .next (s.putShifted (s.rmwLoc o) (rorResult (s.getLoc (s.rmwLoc o)) (s.flag .c)) (rightCarry (s.getLoc (s.rmwLoc o)))) := rfl
theorem exec_cmp (o : ReadOperand) (s : State) : exec (.cmp o) s = .next (s.compare s.a (s.operand o)) := rfl
theorem exec_cpx (o : ReadOperand) (s : State) : exec (.cpx o) s = .next (s.compare s.x (s.operand o)) := rfl
theorem exec_cpy (o : ReadOperand) (s : State) : exec (.cpy o) s = .next (s.compare s.y (s.operand o)) := rfl
theorem exec_inc (m : MemOperand) (s : State) : exec (.inc m) s =
    .next (s.storeZN (s.effAddr m) (s.read (s.effAddr m) + 1)) := rfl
theorem exec_dec (m : MemOperand) (s : State) : exec (.dec m) s =
    .next (s.storeZN (s.effAddr m) (s.read (s.effAddr m) - 1)) := rfl
theorem exec_inx (s : State) : exec (.inx) s = .next ((s.setX (s.x + 1)).setZN (s.x + 1)) := rfl
theorem exec_iny (s : State) : exec (.iny) s = .next ((s.setY (s.y + 1)).setZN (s.y + 1)) := rfl
theorem exec_dex (s : State) : exec (.dex) s = .next ((s.setX (s.x - 1)).setZN (s.x - 1)) := rfl
theorem exec_dey (s : State) : exec (.dey) s = .next ((s.setY (s.y - 1)).setZN (s.y - 1)) := rfl
theorem exec_bcc (off : Byte) (s : State) : exec (.bcc off) s = .next (s.branch (!s.flag .c) off) := rfl
theorem exec_bcs (off : Byte) (s : State) : exec (.bcs off) s = .next (s.branch (s.flag .c) off) := rfl
theorem exec_beq (off : Byte) (s : State) : exec (.beq off) s = .next (s.branch (s.flag .z) off) := rfl
theorem exec_bne (off : Byte) (s : State) : exec (.bne off) s = .next (s.branch (!s.flag .z) off) := rfl
theorem exec_bmi (off : Byte) (s : State) : exec (.bmi off) s = .next (s.branch (s.flag .n) off) := rfl
theorem exec_bpl (off : Byte) (s : State) : exec (.bpl off) s = .next (s.branch (!s.flag .n) off) := rfl
theorem exec_bvc (off : Byte) (s : State) : exec (.bvc off) s = .next (s.branch (!s.flag .v) off) := rfl
theorem exec_bvs (off : Byte) (s : State) : exec (.bvs off) s = .next (s.branch (s.flag .v) off) := rfl
theorem exec_jmp (o : JumpOperand) (s : State) : exec (.jmp o) s = .next (s.setPC (s.jumpTarget o)) := rfl
theorem exec_jsr (target : Word) (s : State) : exec (.jsr target) s = .next (s.call params target) := rfl
theorem exec_rts (s : State) : exec (.rts) s = .next (s.returnFromCall params) := rfl
theorem exec_rti (s : State) : exec (.rti) s = .next s.returnFromInterrupt := rfl
theorem exec_pha (s : State) : exec (.pha) s = .next (s.push s.a) := rfl
theorem exec_php (s : State) : exec (.php) s = .next (s.push (softwareStatus s.p)) := rfl
theorem exec_pla (s : State) : exec (.pla) s = .next (s.afterPull.loadA s.pulled) := rfl
theorem exec_plp (s : State) : exec (.plp) s = .next (s.afterPull.setP s.pulled) := rfl
theorem exec_sec (s : State) : exec (.sec) s = .next (s.setFlag .c true) := rfl
theorem exec_clc (s : State) : exec (.clc) s = .next (s.setFlag .c false) := rfl
theorem exec_sei (s : State) : exec (.sei) s = .next (s.setFlag .i true) := rfl
theorem exec_cli (s : State) : exec (.cli) s = .next (s.setFlag .i false) := rfl
theorem exec_sed (s : State) : exec (.sed) s = .next (s.setFlag .d true) := rfl
theorem exec_cld (s : State) : exec (.cld) s = .next (s.setFlag .d false) := rfl
theorem exec_clv (s : State) : exec (.clv) s = .next (s.setFlag .v false) := rfl
theorem exec_lda (o : ReadOperand) (s : State) : exec (.lda o) s = .next (s.loadA (s.operand o)) := rfl
theorem exec_ldx (o : ReadOperand) (s : State) : exec (.ldx o) s = .next (s.loadX (s.operand o)) := rfl
theorem exec_ldy (o : ReadOperand) (s : State) : exec (.ldy o) s = .next (s.loadY (s.operand o)) := rfl
theorem exec_sta (m : MemOperand) (s : State) : exec (.sta m) s = .next (s.write (s.effAddr m) s.a) := rfl
theorem exec_stx (m : MemOperand) (s : State) : exec (.stx m) s = .next (s.write (s.effAddr m) s.x) := rfl
theorem exec_sty (m : MemOperand) (s : State) : exec (.sty m) s = .next (s.write (s.effAddr m) s.y) := rfl
theorem exec_tax (s : State) : exec (.tax) s = .next (s.loadX s.a) := rfl
theorem exec_tay (s : State) : exec (.tay) s = .next (s.loadY s.a) := rfl
theorem exec_txa (s : State) : exec (.txa) s = .next (s.loadA s.x) := rfl
theorem exec_tya (s : State) : exec (.tya) s = .next (s.loadA s.y) := rfl
theorem exec_tsx (s : State) : exec (.tsx) s = .next (s.loadX s.sp) := rfl
theorem exec_txs (s : State) : exec (.txs) s = .next (s.setSP s.x) := rfl
theorem exec_brk (s : State) : exec (.brk) s = .next (s.break params) := rfl
theorem exec_nop (s : State) : exec (.nop) s = .next s := rfl
theorem exec_ill (op : Byte) (s : State) : exec (.ill op) s = .next s := rfl

/-- Passing BRK's signature byte moves PC at most (49_moves_control.md R162). -/
theorem State.skipSignature_eq (p : Params) (s : State) :
    s.skipSignature p = s.setPC (if p.brkSkip then s.pc + 1 else s.pc) := by
  unfold State.skipSignature
  cases p.brkSkip <;> rfl

/-- A branch moves PC at most (45_branches.md R110). -/
theorem State.branch_eq (s : State) (cond : Bool) (off : Byte) :
    s.branch cond off = s.setPC (if cond then s.branchTarget off else s.pc) := by
  unfold State.branch
  cases cond <;> rfl

/-- BRK, field by field (49_moves_control.md R162). -/
theorem State.break_spec (p : Params) (s : State) :
    (s.break p).a = s.a ∧ (s.break p).x = s.x ∧ (s.break p).y = s.y ∧
    (s.break p).sp = s.sp - 1 - 1 - 1 ∧ (s.break p).opcode = s.opcode ∧
    (∀ f, (s.break p).flag f = if f = .i ∧ p.intSetsI = true then true else s.flag f) ∧
    (∀ addr, (s.break p).read addr =
      ((s.push16 (if p.brkSkip then s.pc + 1 else s.pc)).push (softwareStatus s.p)).read addr) ∧
    (s.break p).pc =
      ((s.push16 (if p.brkSkip then s.pc + 1 else s.pc)).push (softwareStatus s.p)).read16 irqVector := by
  unfold State.break
  rw [State.skipSignature_eq]
  exact State.enter_spec p irqVector (softwareStatus s.p) (s.setPC (if p.brkSkip then s.pc + 1 else s.pc))

/-- `step` in terms of `exec` (30_encoding.md R44). -/
theorem step_eq (s : State) : step s = exec s.fetchInstr (s.consume s.fetchInstr) := rfl

/-- What consuming an instruction writes: the diagnostic opcode and PC (30_encoding.md R44). -/
theorem State.consume_eq (s : State) (i : Instr) :
    s.consume i = { s with opcode := s.read s.pc, pc := s.pc + BitVec.ofNat 16 i.length } := rfl

end Sys2Proof.Machine
end

