-- ==== Sys2Proof/Laws/PerInstr.lean ====
section
/-! SUPPORT. Families of facts about instructions as syntax, one lemma per constructor. -/

namespace Sys2Proof.Laws.EncodedLength

/-- An instruction that the opcode map holds is encoded in as many bytes as its addressing mode says (30_encoding.md R42). -/
def Statement (i : Instr) : Prop := ∀ bs, encode i = some bs → bs.length = i.length

/-- The encoded length from the operand's. -/
theorem length_of_operands {i : Instr} (h : i.operandBytes.length = i.mode.operandBytes) : Statement i := by
  intro bs hbs
  obtain ⟨op, -, rfl⟩ := encode_eq_some.mp hbs
  simp [Instr.length, h, Nat.add_comm]

theorem adc (o : ReadOperand) : Statement (.adc o) := length_of_operands (o.bytes_length)
theorem sbc (o : ReadOperand) : Statement (.sbc o) := length_of_operands (o.bytes_length)
theorem and (o : ReadOperand) : Statement (.and o) := length_of_operands (o.bytes_length)
theorem ora (o : ReadOperand) : Statement (.ora o) := length_of_operands (o.bytes_length)
theorem eor (o : ReadOperand) : Statement (.eor o) := length_of_operands (o.bytes_length)
theorem bit (m : MemOperand) : Statement (.bit m) := length_of_operands (m.bytes_length)
theorem asl (o : RmwOperand) : Statement (.asl o) := length_of_operands (o.bytes_length)
theorem lsr (o : RmwOperand) : Statement (.lsr o) := length_of_operands (o.bytes_length)
theorem rol (o : RmwOperand) : Statement (.rol o) := length_of_operands (o.bytes_length)
theorem ror (o : RmwOperand) : Statement (.ror o) := length_of_operands (o.bytes_length)
theorem cmp (o : ReadOperand) : Statement (.cmp o) := length_of_operands (o.bytes_length)
theorem cpx (o : ReadOperand) : Statement (.cpx o) := length_of_operands (o.bytes_length)
theorem cpy (o : ReadOperand) : Statement (.cpy o) := length_of_operands (o.bytes_length)
theorem inc (m : MemOperand) : Statement (.inc m) := length_of_operands (m.bytes_length)
theorem dec (m : MemOperand) : Statement (.dec m) := length_of_operands (m.bytes_length)
theorem inx : Statement (.inx) := length_of_operands rfl
theorem iny : Statement (.iny) := length_of_operands rfl
theorem dex : Statement (.dex) := length_of_operands rfl
theorem dey : Statement (.dey) := length_of_operands rfl
theorem bcc (off : Byte) : Statement (.bcc off) := length_of_operands rfl
theorem bcs (off : Byte) : Statement (.bcs off) := length_of_operands rfl
theorem beq (off : Byte) : Statement (.beq off) := length_of_operands rfl
theorem bne (off : Byte) : Statement (.bne off) := length_of_operands rfl
theorem bmi (off : Byte) : Statement (.bmi off) := length_of_operands rfl
theorem bpl (off : Byte) : Statement (.bpl off) := length_of_operands rfl
theorem bvc (off : Byte) : Statement (.bvc off) := length_of_operands rfl
theorem bvs (off : Byte) : Statement (.bvs off) := length_of_operands rfl
theorem jmp (o : JumpOperand) : Statement (.jmp o) := length_of_operands (o.bytes_length)
theorem jsr (target : Word) : Statement (.jsr target) := length_of_operands rfl
theorem rts : Statement (.rts) := length_of_operands rfl
theorem rti : Statement (.rti) := length_of_operands rfl
theorem pha : Statement (.pha) := length_of_operands rfl
theorem php : Statement (.php) := length_of_operands rfl
theorem pla : Statement (.pla) := length_of_operands rfl
theorem plp : Statement (.plp) := length_of_operands rfl
theorem sec : Statement (.sec) := length_of_operands rfl
theorem clc : Statement (.clc) := length_of_operands rfl
theorem sei : Statement (.sei) := length_of_operands rfl
theorem cli : Statement (.cli) := length_of_operands rfl
theorem sed : Statement (.sed) := length_of_operands rfl
theorem cld : Statement (.cld) := length_of_operands rfl
theorem clv : Statement (.clv) := length_of_operands rfl
theorem lda (o : ReadOperand) : Statement (.lda o) := length_of_operands (o.bytes_length)
theorem ldx (o : ReadOperand) : Statement (.ldx o) := length_of_operands (o.bytes_length)
theorem ldy (o : ReadOperand) : Statement (.ldy o) := length_of_operands (o.bytes_length)
theorem sta (m : MemOperand) : Statement (.sta m) := length_of_operands (m.bytes_length)
theorem stx (m : MemOperand) : Statement (.stx m) := length_of_operands (m.bytes_length)
theorem sty (m : MemOperand) : Statement (.sty m) := length_of_operands (m.bytes_length)
theorem tax : Statement (.tax) := length_of_operands rfl
theorem tay : Statement (.tay) := length_of_operands rfl
theorem txa : Statement (.txa) := length_of_operands rfl
theorem tya : Statement (.tya) := length_of_operands rfl
theorem tsx : Statement (.tsx) := length_of_operands rfl
theorem txs : Statement (.txs) := length_of_operands rfl
theorem brk : Statement (.brk) := length_of_operands rfl
theorem nop : Statement (.nop) := length_of_operands rfl
theorem ill (op : Byte) : Statement (.ill op) := length_of_operands rfl

end Sys2Proof.Laws.EncodedLength
end

