-- ==== Sys2Proof/Tests/Slice0.lean ====
section
/-! SUPPORT. The model's own tests: ill-formed terms refused, decoding against words written bit by bit from 30_encoding.md
R52, one step per row against the vectors of 95_test_vectors.md (the numbers V1, V2, ... are that file's), and a witness
for the hypotheses of each statement that has some. -/

namespace Sys2Proof.Tests
open Sys2Proof Machine

/-- A state with the named registers, instruction bytes at PC, and some memory bytes; `opcode` 0 and every other byte 0. -/
def at' (a x y sp p : Byte) (pc : Word) (code : List Byte) (bytes : List (Word × Byte)) : State :=
  let s : State := { State.reset with a := a, x := x, y := y, sp := sp, p := p, pc := pc }
  let s := (code.zipIdx).foldl (fun s b => s.write (pc + BitVec.ofNat 16 b.2) b.1) s
  bytes.foldl (fun s b => s.write b.1 b.2) s

/-- The result is a next state that passes a check. -/
def gives (r : Result) (check : State → Bool) : Bool :=
  match r with
  | .next t => check t
  | .fault _ => false
  | .refused _ => false

/-! ## WellFormed refuses -/

/-- One ill-formed term for each check of `Instr.wf`: a mode R52 has no cell for, or a stub on an assigned byte. -/
theorem test_wf_refuses :
    ([.adc (.mem (.zpY 0x10)), .sbc (.mem (.zpY 0x10)), .and (.mem (.zpY 0x10)), .ora (.mem (.zpY 0x10)),
      .eor (.mem (.zpY 0x10)), .bit (.zpX 0x10), .asl (.mem (.indX 0x10)), .lsr (.mem (.absY 0x1000)),
      .rol (.mem (.indY 0x10)), .ror (.mem (.zpY 0x10)), .cmp (.mem (.zpY 0x10)), .cpx (.mem (.zpX 0x10)),
      .cpy (.mem (.absX 0x1000)), .inc (.absY 0x1000), .dec (.indY 0x10), .lda (.mem (.zpY 0x10)),
      .ldx (.mem (.zpX 0x10)), .ldy (.mem (.absY 0x1000)), .sta (.zpY 0x10), .stx (.absY 0x1000),
      .sty (.zpY 0x10), .ill 0xEA] : List Instr).all (fun i => !i.wf) = true := by decide

/-- Well-formed terms of each operand shape are accepted. -/
theorem test_wf_accepts :
    ([.adc (.imm 0x00), .bit (.abs 0x1234), .asl .acc, .ldx (.mem (.zpY 0xFF)), .stx (.zpY 0x00), .jmp (.ind 0x01FF),
      .ill 0x02] : List Instr).all (fun i => i.wf) = true := by decide

/-- An ill-formed term has no encoding. -/
theorem test_encode_refuses : encode (.sta (.zpY 0x10)) = none ∧ encode (.ill 0xEA) = none := by decide

/-! ## Decoding, opcode bits written out from R52; the operand bytes are 0x34 0x12 -/

theorem test_decode_arithmetic :
    decodeBytes 0b01101001 0x34 0x12 = .adc (.imm 0x34) ∧
    decodeBytes 0b01100101 0x34 0x12 = .adc (.mem (.zp 0x34)) ∧
    decodeBytes 0b01110101 0x34 0x12 = .adc (.mem (.zpX 0x34)) ∧
    decodeBytes 0b01101101 0x34 0x12 = .adc (.mem (.abs 0x1234)) ∧
    decodeBytes 0b01111101 0x34 0x12 = .adc (.mem (.absX 0x1234)) ∧
    decodeBytes 0b01111001 0x34 0x12 = .adc (.mem (.absY 0x1234)) ∧
    decodeBytes 0b01100001 0x34 0x12 = .adc (.mem (.indX 0x34)) ∧
    decodeBytes 0b01110001 0x34 0x12 = .adc (.mem (.indY 0x34)) ∧
    decodeBytes 0b11101001 0x34 0x12 = .sbc (.imm 0x34) ∧
    decodeBytes 0b11100101 0x34 0x12 = .sbc (.mem (.zp 0x34)) ∧
    decodeBytes 0b11110101 0x34 0x12 = .sbc (.mem (.zpX 0x34)) ∧
    decodeBytes 0b11101101 0x34 0x12 = .sbc (.mem (.abs 0x1234)) ∧
    decodeBytes 0b11111101 0x34 0x12 = .sbc (.mem (.absX 0x1234)) ∧
    decodeBytes 0b11111001 0x34 0x12 = .sbc (.mem (.absY 0x1234)) ∧
    decodeBytes 0b11100001 0x34 0x12 = .sbc (.mem (.indX 0x34)) ∧
    decodeBytes 0b11110001 0x34 0x12 = .sbc (.mem (.indY 0x34)) := by decide

theorem test_decode_logic :
    decodeBytes 0b00101001 0x34 0x12 = .and (.imm 0x34) ∧
    decodeBytes 0b00100101 0x34 0x12 = .and (.mem (.zp 0x34)) ∧
    decodeBytes 0b00110101 0x34 0x12 = .and (.mem (.zpX 0x34)) ∧
    decodeBytes 0b00101101 0x34 0x12 = .and (.mem (.abs 0x1234)) ∧
    decodeBytes 0b00111101 0x34 0x12 = .and (.mem (.absX 0x1234)) ∧
    decodeBytes 0b00111001 0x34 0x12 = .and (.mem (.absY 0x1234)) ∧
    decodeBytes 0b00100001 0x34 0x12 = .and (.mem (.indX 0x34)) ∧
    decodeBytes 0b00110001 0x34 0x12 = .and (.mem (.indY 0x34)) ∧
    decodeBytes 0b00001001 0x34 0x12 = .ora (.imm 0x34) ∧
    decodeBytes 0b00000101 0x34 0x12 = .ora (.mem (.zp 0x34)) ∧
    decodeBytes 0b00010101 0x34 0x12 = .ora (.mem (.zpX 0x34)) ∧
    decodeBytes 0b00001101 0x34 0x12 = .ora (.mem (.abs 0x1234)) ∧
    decodeBytes 0b00011101 0x34 0x12 = .ora (.mem (.absX 0x1234)) ∧
    decodeBytes 0b00011001 0x34 0x12 = .ora (.mem (.absY 0x1234)) ∧
    decodeBytes 0b00000001 0x34 0x12 = .ora (.mem (.indX 0x34)) ∧
    decodeBytes 0b00010001 0x34 0x12 = .ora (.mem (.indY 0x34)) ∧
    decodeBytes 0b01001001 0x34 0x12 = .eor (.imm 0x34) ∧
    decodeBytes 0b01000101 0x34 0x12 = .eor (.mem (.zp 0x34)) ∧
    decodeBytes 0b01010101 0x34 0x12 = .eor (.mem (.zpX 0x34)) ∧
    decodeBytes 0b01001101 0x34 0x12 = .eor (.mem (.abs 0x1234)) ∧
    decodeBytes 0b01011101 0x34 0x12 = .eor (.mem (.absX 0x1234)) ∧
    decodeBytes 0b01011001 0x34 0x12 = .eor (.mem (.absY 0x1234)) ∧
    decodeBytes 0b01000001 0x34 0x12 = .eor (.mem (.indX 0x34)) ∧
    decodeBytes 0b01010001 0x34 0x12 = .eor (.mem (.indY 0x34)) ∧
    decodeBytes 0b00100100 0x34 0x12 = .bit (.zp 0x34) ∧
    decodeBytes 0b00101100 0x34 0x12 = .bit (.abs 0x1234) := by decide

theorem test_decode_shifts :
    decodeBytes 0b00001010 0x34 0x12 = .asl .acc ∧
    decodeBytes 0b00000110 0x34 0x12 = .asl (.mem (.zp 0x34)) ∧
    decodeBytes 0b00010110 0x34 0x12 = .asl (.mem (.zpX 0x34)) ∧
    decodeBytes 0b00001110 0x34 0x12 = .asl (.mem (.abs 0x1234)) ∧
    decodeBytes 0b00011110 0x34 0x12 = .asl (.mem (.absX 0x1234)) ∧
    decodeBytes 0b01001010 0x34 0x12 = .lsr .acc ∧
    decodeBytes 0b01000110 0x34 0x12 = .lsr (.mem (.zp 0x34)) ∧
    decodeBytes 0b01010110 0x34 0x12 = .lsr (.mem (.zpX 0x34)) ∧
    decodeBytes 0b01001110 0x34 0x12 = .lsr (.mem (.abs 0x1234)) ∧
    decodeBytes 0b01011110 0x34 0x12 = .lsr (.mem (.absX 0x1234)) ∧
    decodeBytes 0b00101010 0x34 0x12 = .rol .acc ∧
    decodeBytes 0b00100110 0x34 0x12 = .rol (.mem (.zp 0x34)) ∧
    decodeBytes 0b00110110 0x34 0x12 = .rol (.mem (.zpX 0x34)) ∧
    decodeBytes 0b00101110 0x34 0x12 = .rol (.mem (.abs 0x1234)) ∧
    decodeBytes 0b00111110 0x34 0x12 = .rol (.mem (.absX 0x1234)) ∧
    decodeBytes 0b01101010 0x34 0x12 = .ror .acc ∧
    decodeBytes 0b01100110 0x34 0x12 = .ror (.mem (.zp 0x34)) ∧
    decodeBytes 0b01110110 0x34 0x12 = .ror (.mem (.zpX 0x34)) ∧
    decodeBytes 0b01101110 0x34 0x12 = .ror (.mem (.abs 0x1234)) ∧
    decodeBytes 0b01111110 0x34 0x12 = .ror (.mem (.absX 0x1234)) := by decide

theorem test_decode_compare :
    decodeBytes 0b11001001 0x34 0x12 = .cmp (.imm 0x34) ∧
    decodeBytes 0b11000101 0x34 0x12 = .cmp (.mem (.zp 0x34)) ∧
    decodeBytes 0b11010101 0x34 0x12 = .cmp (.mem (.zpX 0x34)) ∧
    decodeBytes 0b11001101 0x34 0x12 = .cmp (.mem (.abs 0x1234)) ∧
    decodeBytes 0b11011101 0x34 0x12 = .cmp (.mem (.absX 0x1234)) ∧
    decodeBytes 0b11011001 0x34 0x12 = .cmp (.mem (.absY 0x1234)) ∧
    decodeBytes 0b11000001 0x34 0x12 = .cmp (.mem (.indX 0x34)) ∧
    decodeBytes 0b11010001 0x34 0x12 = .cmp (.mem (.indY 0x34)) ∧
    decodeBytes 0b11100000 0x34 0x12 = .cpx (.imm 0x34) ∧
    decodeBytes 0b11100100 0x34 0x12 = .cpx (.mem (.zp 0x34)) ∧
    decodeBytes 0b11101100 0x34 0x12 = .cpx (.mem (.abs 0x1234)) ∧
    decodeBytes 0b11000000 0x34 0x12 = .cpy (.imm 0x34) ∧
    decodeBytes 0b11000100 0x34 0x12 = .cpy (.mem (.zp 0x34)) ∧
    decodeBytes 0b11001100 0x34 0x12 = .cpy (.mem (.abs 0x1234)) := by decide

theorem test_decode_incdec :
    decodeBytes 0b11100110 0x34 0x12 = .inc (.zp 0x34) ∧
    decodeBytes 0b11110110 0x34 0x12 = .inc (.zpX 0x34) ∧
    decodeBytes 0b11101110 0x34 0x12 = .inc (.abs 0x1234) ∧
    decodeBytes 0b11111110 0x34 0x12 = .inc (.absX 0x1234) ∧
    decodeBytes 0b11000110 0x34 0x12 = .dec (.zp 0x34) ∧
    decodeBytes 0b11010110 0x34 0x12 = .dec (.zpX 0x34) ∧
    decodeBytes 0b11001110 0x34 0x12 = .dec (.abs 0x1234) ∧
    decodeBytes 0b11011110 0x34 0x12 = .dec (.absX 0x1234) ∧
    decodeBytes 0b11101000 0x34 0x12 = .inx ∧
    decodeBytes 0b11001000 0x34 0x12 = .iny ∧
    decodeBytes 0b11001010 0x34 0x12 = .dex ∧
    decodeBytes 0b10001000 0x34 0x12 = .dey := by decide

theorem test_decode_branches :
    decodeBytes 0b10010000 0x34 0x12 = .bcc 0x34 ∧
    decodeBytes 0b10110000 0x34 0x12 = .bcs 0x34 ∧
    decodeBytes 0b11110000 0x34 0x12 = .beq 0x34 ∧
    decodeBytes 0b11010000 0x34 0x12 = .bne 0x34 ∧
    decodeBytes 0b00110000 0x34 0x12 = .bmi 0x34 ∧
    decodeBytes 0b00010000 0x34 0x12 = .bpl 0x34 ∧
    decodeBytes 0b01010000 0x34 0x12 = .bvc 0x34 ∧
    decodeBytes 0b01110000 0x34 0x12 = .bvs 0x34 := by decide

theorem test_decode_jumps :
    decodeBytes 0b01001100 0x34 0x12 = .jmp (.abs 0x1234) ∧
    decodeBytes 0b01101100 0x34 0x12 = .jmp (.ind 0x1234) ∧
    decodeBytes 0b00100000 0x34 0x12 = .jsr 0x1234 ∧
    decodeBytes 0b01100000 0x34 0x12 = .rts ∧
    decodeBytes 0b01000000 0x34 0x12 = .rti := by decide

theorem test_decode_stack :
    decodeBytes 0b01001000 0x34 0x12 = .pha ∧
    decodeBytes 0b00001000 0x34 0x12 = .php ∧
    decodeBytes 0b01101000 0x34 0x12 = .pla ∧
    decodeBytes 0b00101000 0x34 0x12 = .plp := by decide

theorem test_decode_flags :
    decodeBytes 0b00111000 0x34 0x12 = .sec ∧
    decodeBytes 0b00011000 0x34 0x12 = .clc ∧
    decodeBytes 0b01111000 0x34 0x12 = .sei ∧
    decodeBytes 0b01011000 0x34 0x12 = .cli ∧
    decodeBytes 0b11111000 0x34 0x12 = .sed ∧
    decodeBytes 0b11011000 0x34 0x12 = .cld ∧
    decodeBytes 0b10111000 0x34 0x12 = .clv := by decide

theorem test_decode_loads :
    decodeBytes 0b10101001 0x34 0x12 = .lda (.imm 0x34) ∧
    decodeBytes 0b10100101 0x34 0x12 = .lda (.mem (.zp 0x34)) ∧
    decodeBytes 0b10110101 0x34 0x12 = .lda (.mem (.zpX 0x34)) ∧
    decodeBytes 0b10101101 0x34 0x12 = .lda (.mem (.abs 0x1234)) ∧
    decodeBytes 0b10111101 0x34 0x12 = .lda (.mem (.absX 0x1234)) ∧
    decodeBytes 0b10111001 0x34 0x12 = .lda (.mem (.absY 0x1234)) ∧
    decodeBytes 0b10100001 0x34 0x12 = .lda (.mem (.indX 0x34)) ∧
    decodeBytes 0b10110001 0x34 0x12 = .lda (.mem (.indY 0x34)) ∧
    decodeBytes 0b10100010 0x34 0x12 = .ldx (.imm 0x34) ∧
    decodeBytes 0b10100110 0x34 0x12 = .ldx (.mem (.zp 0x34)) ∧
    decodeBytes 0b10110110 0x34 0x12 = .ldx (.mem (.zpY 0x34)) ∧
    decodeBytes 0b10101110 0x34 0x12 = .ldx (.mem (.abs 0x1234)) ∧
    decodeBytes 0b10111110 0x34 0x12 = .ldx (.mem (.absY 0x1234)) ∧
    decodeBytes 0b10100000 0x34 0x12 = .ldy (.imm 0x34) ∧
    decodeBytes 0b10100100 0x34 0x12 = .ldy (.mem (.zp 0x34)) ∧
    decodeBytes 0b10110100 0x34 0x12 = .ldy (.mem (.zpX 0x34)) ∧
    decodeBytes 0b10101100 0x34 0x12 = .ldy (.mem (.abs 0x1234)) ∧
    decodeBytes 0b10111100 0x34 0x12 = .ldy (.mem (.absX 0x1234)) := by decide

theorem test_decode_stores :
    decodeBytes 0b10000101 0x34 0x12 = .sta (.zp 0x34) ∧
    decodeBytes 0b10010101 0x34 0x12 = .sta (.zpX 0x34) ∧
    decodeBytes 0b10001101 0x34 0x12 = .sta (.abs 0x1234) ∧
    decodeBytes 0b10011101 0x34 0x12 = .sta (.absX 0x1234) ∧
    decodeBytes 0b10011001 0x34 0x12 = .sta (.absY 0x1234) ∧
    decodeBytes 0b10000001 0x34 0x12 = .sta (.indX 0x34) ∧
    decodeBytes 0b10010001 0x34 0x12 = .sta (.indY 0x34) ∧
    decodeBytes 0b10000110 0x34 0x12 = .stx (.zp 0x34) ∧
    decodeBytes 0b10010110 0x34 0x12 = .stx (.zpY 0x34) ∧
    decodeBytes 0b10001110 0x34 0x12 = .stx (.abs 0x1234) ∧
    decodeBytes 0b10000100 0x34 0x12 = .sty (.zp 0x34) ∧
    decodeBytes 0b10010100 0x34 0x12 = .sty (.zpX 0x34) ∧
    decodeBytes 0b10001100 0x34 0x12 = .sty (.abs 0x1234) := by decide

theorem test_decode_transfers :
    decodeBytes 0b10101010 0x34 0x12 = .tax ∧
    decodeBytes 0b10101000 0x34 0x12 = .tay ∧
    decodeBytes 0b10001010 0x34 0x12 = .txa ∧
    decodeBytes 0b10011000 0x34 0x12 = .tya ∧
    decodeBytes 0b10111010 0x34 0x12 = .tsx ∧
    decodeBytes 0b10011010 0x34 0x12 = .txs := by decide

theorem test_decode_control :
    decodeBytes 0b00000000 0x34 0x12 = .brk ∧
    decodeBytes 0b11101010 0x34 0x12 = .nop ∧
    decodeBytes 0b00000010 0x34 0x12 = .ill 0x02 ∧
    decodeBytes 0b11111111 0x34 0x12 = .ill 0xFF := by decide

/-- An operand byte that is missing is an error by name; a longer list is left over. -/
theorem test_decode_list :
    decode [] = .error .noOpcode ∧ decode [0x6C, 0xFF] = .error (.missingOperand 0x6C) ∧
    decode [0xA9, 0x80, 0xEA] = .ok (.lda (.imm 0x80), [0xEA]) := ⟨rfl, rfl, rfl⟩

/-- The host's table word: byte 0 in the low bits, bits above `nbits` zero. -/
theorem test_decodeTableWord :
    decodeTableWord 24 0x01FF6C = some (.jmp (.ind 0x01FF)) ∧ decodeTableWord 8 0x01FF6C = some (.jmp (.ind 0x0000)) := by
  decide

/-- A table word is what the very next step runs: LDA #$80 from power-on. -/
theorem test_withFetchWord :
    gives (step (State.reset.withFetchWord 16 0x80A9)) (fun t => t.a == 0x80 && t.pc == 0x0002) = true := by decide

/-! ## One step against the vectors of 95_test_vectors.md -/

/-- V4, `ADC #$00`. -/
theorem test_adc_carry_in_overflows : gives (step (at' 0x7F 0x00 0x00 0x00 0x01 0x0200 [0x69, 0x00] []))
    (fun t => t.pc == 0x0202 && t.a == 0x80 && t.p == 0xC0) = true := by decide

/-- V5, `ADC #$01`. -/
theorem test_adc_ignores_d : gives (step (at' 0x01 0x00 0x00 0x00 0x08 0x0200 [0x69, 0x01] []))
    (fun t => t.pc == 0x0202 && t.a == 0x02 && t.p == 0x08) = true := by decide

/-- V9, `SBC #$05`. -/
theorem test_sbc_borrow : gives (step (at' 0x05 0x00 0x00 0x00 0x00 0x0200 [0xE9, 0x05] []))
    (fun t => t.pc == 0x0202 && t.a == 0xFF && t.p == 0x80) = true := by decide

/-- V10, `SBC #$01`. -/
theorem test_sbc_overflow : gives (step (at' 0x80 0x00 0x00 0x00 0x01 0x0200 [0xE9, 0x01] []))
    (fun t => t.pc == 0x0202 && t.a == 0x7F && t.p == 0x41) = true := by decide

/-- V12, `AND #$3C`. -/
theorem test_and : gives (step (at' 0xF0 0x00 0x00 0x00 0x00 0x0200 [0x29, 0x3C] []))
    (fun t => t.pc == 0x0202 && t.a == 0x30 && t.p == 0x00) = true := by decide

/-- V13, `AND #$00`. -/
theorem test_and_zero : gives (step (at' 0xFF 0x00 0x00 0x00 0x80 0x0200 [0x29, 0x00] []))
    (fun t => t.pc == 0x0202 && t.a == 0x00 && t.p == 0x02) = true := by decide

/-- V14, `ORA #$80`. -/
theorem test_ora : gives (step (at' 0x01 0x00 0x00 0x00 0x00 0x0200 [0x09, 0x80] []))
    (fun t => t.pc == 0x0202 && t.a == 0x81 && t.p == 0x80) = true := by decide

/-- V16, `EOR #$0F`. -/
theorem test_eor : gives (step (at' 0xFF 0x00 0x00 0x00 0x00 0x0200 [0x49, 0x0F] []))
    (fun t => t.pc == 0x0202 && t.a == 0xF0 && t.p == 0x80) = true := by decide

/-- V18, `BIT $10`. -/
theorem test_bit : gives (step (at' 0x0F 0x00 0x00 0x00 0x00 0x0200 [0x24, 0x10] [(0x0010, 0xC0)]))
    (fun t => t.pc == 0x0202 && t.p == 0xC2) = true := by decide

/-- V19, `BIT $1234`. -/
theorem test_bit_clears : gives (step (at' 0x01 0x00 0x00 0x00 0xC2 0x0200 [0x2C, 0x34, 0x12]
      [(0x1234, 0x01)]))
    (fun t => t.pc == 0x0203 && t.p == 0x00) = true := by decide

/-- V21, `ASL A`. -/
theorem test_asl_zero : gives (step (at' 0x80 0x00 0x00 0x00 0x00 0x0200 [0x0A] []))
    (fun t => t.pc == 0x0201 && t.a == 0x00 && t.p == 0x03) = true := by decide

/-- V22, `ASL $10`. -/
theorem test_asl_memory : gives (step (at' 0x00 0x00 0x00 0x00 0x00 0x0200 [0x06, 0x10] [(0x0010, 0x40)]))
    (fun t => t.pc == 0x0202 && t.p == 0x80 && t.read 0x0010 == 0x80) = true := by decide

/-- V24, `LSR $0300,X`. -/
theorem test_lsr_memory : gives (step (at' 0x00 0x01 0x00 0x00 0x00 0x0200 [0x5E, 0x00, 0x03]
      [(0x0301, 0x03)]))
    (fun t => t.pc == 0x0203 && t.p == 0x01 && t.read 0x0301 == 0x01) = true := by decide

/-- V23, `LSR A`. -/
theorem test_lsr : gives (step (at' 0x01 0x00 0x00 0x00 0x80 0x0200 [0x4A] []))
    (fun t => t.pc == 0x0201 && t.a == 0x00 && t.p == 0x03) = true := by decide

/-- V25, `ROL A`. -/
theorem test_rol : gives (step (at' 0x40 0x00 0x00 0x00 0x01 0x0200 [0x2A] []))
    (fun t => t.pc == 0x0201 && t.a == 0x81 && t.p == 0x80) = true := by decide

/-- V26, `ROL A`. -/
theorem test_rol_zero : gives (step (at' 0x80 0x00 0x00 0x00 0x00 0x0200 [0x2A] []))
    (fun t => t.pc == 0x0201 && t.a == 0x00 && t.p == 0x03) = true := by decide

/-- V27, `ROR A`. -/
theorem test_ror : gives (step (at' 0x01 0x00 0x00 0x00 0x01 0x0200 [0x6A] []))
    (fun t => t.pc == 0x0201 && t.a == 0x80 && t.p == 0x81) = true := by decide

/-- V28, `ROR $10`. -/
theorem test_ror_memory : gives (step (at' 0x00 0x00 0x00 0x00 0x00 0x0200 [0x66, 0x10] [(0x0010, 0x02)]))
    (fun t => t.pc == 0x0202 && t.p == 0x00 && t.read 0x0010 == 0x01) = true := by decide

/-- V29, `CMP #$20`. -/
theorem test_cmp_less : gives (step (at' 0x10 0x00 0x00 0x00 0x00 0x0200 [0xC9, 0x20] []))
    (fun t => t.pc == 0x0202 && t.p == 0x80) = true := by decide

/-- V32, `CMP #$01`. -/
theorem test_cmp_keeps_v : gives (step (at' 0x00 0x00 0x00 0x00 0x41 0x0200 [0xC9, 0x01] []))
    (fun t => t.pc == 0x0202 && t.p == 0xC0) = true := by decide

/-- V33, `CPX #$05`. -/
theorem test_cpx : gives (step (at' 0x00 0x05 0x00 0x00 0x00 0x0200 [0xE0, 0x05] []))
    (fun t => t.pc == 0x0202 && t.p == 0x03) = true := by decide

/-- V34, `CPY $10`. -/
theorem test_cpy : gives (step (at' 0x00 0x00 0xFF 0x00 0x00 0x0200 [0xC4, 0x10] [(0x0010, 0x00)]))
    (fun t => t.pc == 0x0202 && t.p == 0x81) = true := by decide

/-- V35, `INC $10`. -/
theorem test_inc_wraps : gives (step (at' 0x00 0x00 0x00 0x00 0x01 0x0200 [0xE6, 0x10] [(0x0010, 0xFF)]))
    (fun t => t.pc == 0x0202 && t.p == 0x03 && t.read 0x0010 == 0x00) = true := by decide

/-- V36, `INC $10,X`. -/
theorem test_inc_negative : gives (step (at' 0x00 0x01 0x00 0x00 0x00 0x0200 [0xF6, 0x10] [(0x0011, 0x7F)]))
    (fun t => t.pc == 0x0202 && t.p == 0x80 && t.read 0x0011 == 0x80) = true := by decide

/-- V38, `DEC $10`. -/
theorem test_dec_wraps : gives (step (at' 0x00 0x00 0x00 0x00 0x00 0x0200 [0xC6, 0x10] [(0x0010, 0x00)]))
    (fun t => t.pc == 0x0202 && t.p == 0x80 && t.read 0x0010 == 0xFF) = true := by decide

/-- V39, `INX`. -/
theorem test_inx_wraps : gives (step (at' 0x00 0xFF 0x00 0x00 0x80 0x0200 [0xE8] []))
    (fun t => t.pc == 0x0201 && t.x == 0x00 && t.p == 0x02) = true := by decide

/-- V40, `INY`. -/
theorem test_iny : gives (step (at' 0x00 0x00 0x7F 0x00 0x00 0x0200 [0xC8] []))
    (fun t => t.pc == 0x0201 && t.y == 0x80 && t.p == 0x80) = true := by decide

/-- V41, `DEX`. -/
theorem test_dex_wraps : gives (step (at' 0x00 0x00 0x00 0x00 0x00 0x0200 [0xCA] []))
    (fun t => t.pc == 0x0201 && t.x == 0xFF && t.p == 0x80) = true := by decide

/-- V42, `DEY`. -/
theorem test_dey : gives (step (at' 0x00 0x00 0x01 0x00 0x00 0x0200 [0x88] []))
    (fun t => t.pc == 0x0201 && t.y == 0x00 && t.p == 0x02) = true := by decide

/-- V43, `BCC +4`. -/
theorem test_bcc : gives (step (at' 0x00 0x00 0x00 0x00 0x00 0x0200 [0x90, 0x04] []))
    (fun t => t.pc == 0x0206 && t.p == 0x00) = true := by decide

/-- V44, `BCC +4`. -/
theorem test_bcc_not_taken : gives (step (at' 0x00 0x00 0x00 0x00 0x01 0x0200 [0x90, 0x04] []))
    (fun t => t.pc == 0x0202 && t.p == 0x01) = true := by decide

/-- V46, `BCS -128`. -/
theorem test_bcs_back : gives (step (at' 0x00 0x00 0x00 0x00 0x01 0x0280 [0xB0, 0x80] []))
    (fun t => t.pc == 0x0202 && t.p == 0x01) = true := by decide

/-- V47, `BEQ +127`. -/
theorem test_beq_wraps : gives (step (at' 0x00 0x00 0x00 0x00 0x02 0xFFF0 [0xF0, 0x7F] []))
    (fun t => t.pc == 0x0071 && t.p == 0x02) = true := by decide

/-- V49, `BNE +5`. -/
theorem test_bne : gives (step (at' 0x00 0x00 0x00 0x00 0x00 0x0200 [0xD0, 0x05] []))
    (fun t => t.pc == 0x0207 && t.p == 0x00) = true := by decide

/-- V50, `BNE +5`. -/
theorem test_bne_not_taken : gives (step (at' 0x00 0x00 0x00 0x00 0x02 0x0200 [0xD0, 0x05] []))
    (fun t => t.pc == 0x0202 && t.p == 0x02) = true := by decide

/-- V51, `BMI -16`. -/
theorem test_bmi : gives (step (at' 0x00 0x00 0x00 0x00 0x80 0x0400 [0x30, 0xF0] []))
    (fun t => t.pc == 0x03F2 && t.p == 0x80) = true := by decide

/-- V52, `BPL +2`. -/
theorem test_bpl : gives (step (at' 0x00 0x00 0x00 0x00 0x00 0x0400 [0x10, 0x02] []))
    (fun t => t.pc == 0x0404 && t.p == 0x00) = true := by decide

/-- V53, `BVC +1`. -/
theorem test_bvc : gives (step (at' 0x00 0x00 0x00 0x00 0x00 0x0500 [0x50, 0x01] []))
    (fun t => t.pc == 0x0503 && t.p == 0x00) = true := by decide

/-- V54, `BVS +1`. -/
theorem test_bvs_not_taken : gives (step (at' 0x00 0x00 0x00 0x00 0x00 0x0500 [0x70, 0x01] []))
    (fun t => t.pc == 0x0502 && t.p == 0x00) = true := by decide

/-- V55, `BVS -3`. -/
theorem test_bvs : gives (step (at' 0x00 0x00 0x00 0x00 0x40 0x0500 [0x70, 0xFD] []))
    (fun t => t.pc == 0x04FF && t.p == 0x40) = true := by decide

/-- V56, `JMP $C000`. -/
theorem test_jmp : gives (step (at' 0x00 0x00 0x00 0x00 0x00 0x0200 [0x4C, 0x00, 0xC0] []))
    (fun t => t.pc == 0xC000 && t.p == 0x00) = true := by decide

/-- V57, `JMP ($01FF)`. -/
theorem test_jmp_indirect_page : gives (step (at' 0x00 0x00 0x00 0x00 0x00 0x0300 [0x6C, 0xFF, 0x01]
      [(0x0100, 0x12), (0x01FF, 0x34), (0x0200, 0x99)]))
    (fun t => t.pc == 0x1234 && t.p == 0x00) = true := by decide

/-- V59, `JSR $2000`. -/
theorem test_jsr : gives (step (at' 0x00 0x00 0x00 0xFD 0x00 0x1000 [0x20, 0x00, 0x20] []))
    (fun t => t.pc == 0x2000 && t.sp == 0xFB && t.p == 0x00 && t.read 0x01FC == 0x02 && t.read 0x01FD == 0x10) = true := by decide

/-- V61, `JSR $0300`. -/
theorem test_jsr_sp_wraps : gives (step (at' 0x00 0x00 0x00 0x00 0x00 0x1000 [0x20, 0x00, 0x03] []))
    (fun t => t.pc == 0x0300 && t.sp == 0xFE && t.p == 0x00 && t.read 0x0100 == 0x10 && t.read 0x01FF == 0x02) = true := by decide

/-- V62, `RTS`. -/
theorem test_rts : gives (step (at' 0x00 0x00 0x00 0xFB 0x00 0x2000 [0x60]
      [(0x01FC, 0x02), (0x01FD, 0x10)]))
    (fun t => t.pc == 0x1003 && t.sp == 0xFD && t.p == 0x00) = true := by decide

/-- V63, `RTS`. -/
theorem test_rts_wraps : gives (step (at' 0x00 0x00 0x00 0xFB 0x00 0x2000 [0x60]
      [(0x01FC, 0xFF), (0x01FD, 0xFF)]))
    (fun t => t.pc == 0x0000 && t.sp == 0xFD && t.p == 0x00) = true := by decide

/-- V64, `RTI`. -/
theorem test_rti : gives (step (at' 0x00 0x00 0x00 0xFA 0x04 0x8000 [0x40]
      [(0x01FB, 0x20), (0x01FC, 0x34), (0x01FD, 0x12)]))
    (fun t => t.pc == 0x1234 && t.sp == 0xFD && t.p == 0x20) = true := by decide

/-- V65, `RTI`. -/
theorem test_rti_sp_wraps : gives (step (at' 0x00 0x00 0x00 0xFE 0x00 0x8000 [0x40]
      [(0x0100, 0x00), (0x0101, 0x90), (0x01FF, 0xFF)]))
    (fun t => t.pc == 0x9000 && t.sp == 0x01 && t.p == 0xFF) = true := by decide

/-- V66, `PHA`. -/
theorem test_pha : gives (step (at' 0x5A 0x00 0x00 0xFF 0x00 0x0200 [0x48] []))
    (fun t => t.pc == 0x0201 && t.sp == 0xFE && t.p == 0x00 && t.read 0x01FF == 0x5A) = true := by decide

/-- V67, `PHA`. -/
theorem test_pha_sp_zero : gives (step (at' 0x11 0x00 0x00 0x00 0x00 0x0200 [0x48] []))
    (fun t => t.pc == 0x0201 && t.sp == 0xFF && t.p == 0x00 && t.read 0x0100 == 0x11) = true := by decide

/-- V68, `PHP`. -/
theorem test_php : gives (step (at' 0x00 0x00 0x00 0xFF 0xC3 0x0200 [0x08] []))
    (fun t => t.pc == 0x0201 && t.sp == 0xFE && t.p == 0xC3 && t.read 0x01FF == 0xF3) = true := by decide

/-- V70, `PLA`. -/
theorem test_pla : gives (step (at' 0x77 0x00 0x00 0xFE 0x00 0x0200 [0x68] [(0x01FF, 0x00)]))
    (fun t => t.pc == 0x0201 && t.a == 0x00 && t.sp == 0xFF && t.p == 0x02) = true := by decide

/-- V71, `PLA`. -/
theorem test_pla_sp_wraps : gives (step (at' 0x00 0x00 0x00 0xFF 0x02 0x0200 [0x68] [(0x0100, 0x80)]))
    (fun t => t.pc == 0x0201 && t.a == 0x80 && t.sp == 0x00 && t.p == 0x80) = true := by decide

/-- V72, `PLP`. -/
theorem test_plp : gives (step (at' 0x00 0x00 0x00 0xFE 0x00 0x0200 [0x28] [(0x01FF, 0xFF)]))
    (fun t => t.pc == 0x0201 && t.sp == 0xFF && t.p == 0xFF) = true := by decide

/-- V73, `PLP`. -/
theorem test_plp_clears : gives (step (at' 0x00 0x00 0x00 0xFE 0xFF 0x0200 [0x28] [(0x01FF, 0x00)]))
    (fun t => t.pc == 0x0201 && t.sp == 0xFF && t.p == 0x00) = true := by decide

/-- V74, `SEC`. -/
theorem test_sec : gives (step (at' 0x00 0x00 0x00 0x00 0x00 0x0200 [0x38] []))
    (fun t => t.pc == 0x0201 && t.p == 0x01) = true := by decide

/-- V75, `CLC`. -/
theorem test_clc : gives (step (at' 0x00 0x00 0x00 0x00 0xFF 0x0200 [0x18] []))
    (fun t => t.pc == 0x0201 && t.p == 0xFE) = true := by decide

/-- V76, `SEI`. -/
theorem test_sei : gives (step (at' 0x00 0x00 0x00 0x00 0x00 0x0200 [0x78] []))
    (fun t => t.pc == 0x0201 && t.p == 0x04) = true := by decide

/-- V77, `CLI`. -/
theorem test_cli : gives (step (at' 0x00 0x00 0x00 0x00 0x04 0x0200 [0x58] []))
    (fun t => t.pc == 0x0201 && t.p == 0x00) = true := by decide

/-- V78, `SED`. -/
theorem test_sed : gives (step (at' 0x00 0x00 0x00 0x00 0x00 0x0200 [0xF8] []))
    (fun t => t.pc == 0x0201 && t.p == 0x08) = true := by decide

/-- V79, `CLD`. -/
theorem test_cld : gives (step (at' 0x00 0x00 0x00 0x00 0x08 0x0200 [0xD8] []))
    (fun t => t.pc == 0x0201 && t.p == 0x00) = true := by decide

/-- V80, `CLV`. -/
theorem test_clv : gives (step (at' 0x00 0x00 0x00 0x00 0x40 0x0200 [0xB8] []))
    (fun t => t.pc == 0x0201 && t.p == 0x00) = true := by decide

/-- V86, `LDA ($FE,X)`. -/
theorem test_lda_indirect_x : gives (step (at' 0x00 0x01 0x00 0x00 0x00 0x0200 [0xA1, 0xFE]
      [(0x0000, 0x03), (0x00FF, 0x00), (0x0300, 0x99)]))
    (fun t => t.pc == 0x0202 && t.a == 0x99 && t.p == 0x80) = true := by decide

/-- V87, `LDA ($FF),Y`. -/
theorem test_lda_indirect_y : gives (step (at' 0x00 0x00 0x01 0x00 0x00 0x0200 [0xB1, 0xFF]
      [(0x0000, 0x03), (0x00FF, 0xFF), (0x0400, 0x5C)]))
    (fun t => t.pc == 0x0202 && t.a == 0x5C && t.p == 0x00) = true := by decide

/-- V88, `LDX $F0,Y`. -/
theorem test_ldx_zero_page_y : gives (step (at' 0x00 0x00 0x20 0x00 0x00 0x0200 [0xB6, 0xF0] [(0x0010, 0x00)]))
    (fun t => t.pc == 0x0202 && t.p == 0x02) = true := by decide

/-- V89, `LDY #$FF`. -/
theorem test_ldy : gives (step (at' 0x00 0x00 0x00 0x00 0x00 0x0200 [0xA0, 0xFF] []))
    (fun t => t.pc == 0x0202 && t.y == 0xFF && t.p == 0x80) = true := by decide

/-- V90, `STA $0200`. -/
theorem test_sta_no_flags : gives (step (at' 0x42 0x00 0x00 0x00 0x82 0x0300 [0x8D, 0x00, 0x02] []))
    (fun t => t.pc == 0x0303 && t.p == 0x82 && t.read 0x0200 == 0x42) = true := by decide

/-- V91, `STA ($20),Y`. -/
theorem test_sta_indirect_y : gives (step (at' 0x42 0x00 0x05 0x00 0x00 0x0300 [0x91, 0x20]
      [(0x0020, 0xFE), (0x0021, 0x04)]))
    (fun t => t.pc == 0x0302 && t.p == 0x00 && t.read 0x0503 == 0x42) = true := by decide

/-- V93, `STX $F0,Y`. -/
theorem test_stx_zero_page_y : gives (step (at' 0x00 0x07 0x20 0x00 0x00 0x0200 [0x96, 0xF0] []))
    (fun t => t.pc == 0x0202 && t.p == 0x00 && t.read 0x0010 == 0x07) = true := by decide

/-- V94, `STY $20,X`. -/
theorem test_sty_zero_page_x : gives (step (at' 0x00 0xF0 0x09 0x00 0x00 0x0200 [0x94, 0x20] []))
    (fun t => t.pc == 0x0202 && t.p == 0x00 && t.read 0x0010 == 0x09) = true := by decide

/-- V95, `TAX`. -/
theorem test_tax : gives (step (at' 0x80 0x00 0x00 0x00 0x00 0x0200 [0xAA] []))
    (fun t => t.pc == 0x0201 && t.x == 0x80 && t.p == 0x80) = true := by decide

/-- V96, `TAY`. -/
theorem test_tay : gives (step (at' 0x00 0x00 0x05 0x00 0x00 0x0200 [0xA8] []))
    (fun t => t.pc == 0x0201 && t.y == 0x00 && t.p == 0x02) = true := by decide

/-- V97, `TXA`. -/
theorem test_txa : gives (step (at' 0x05 0x00 0x00 0x00 0x00 0x0200 [0x8A] []))
    (fun t => t.pc == 0x0201 && t.a == 0x00 && t.p == 0x02) = true := by decide

/-- V98, `TYA`. -/
theorem test_tya : gives (step (at' 0x00 0x00 0x90 0x00 0x00 0x0200 [0x98] []))
    (fun t => t.pc == 0x0201 && t.a == 0x90 && t.p == 0x80) = true := by decide

/-- V99, `TSX`. -/
theorem test_tsx : gives (step (at' 0x00 0x00 0x00 0xFD 0x00 0x0200 [0xBA] []))
    (fun t => t.pc == 0x0201 && t.x == 0xFD && t.p == 0x80) = true := by decide

/-- V101, `TXS`. -/
theorem test_txs_no_flags : gives (step (at' 0x00 0xFF 0x00 0x00 0x02 0x0200 [0x9A] []))
    (fun t => t.pc == 0x0201 && t.sp == 0xFF && t.p == 0x02) = true := by decide

/-- V102, `BRK`. -/
theorem test_brk : gives (step (at' 0x00 0x00 0x00 0xFF 0x00 0x0300 [0x00]
      [(0xFFFE, 0x00), (0xFFFF, 0x80)]))
    (fun t => t.pc == 0x8000 && t.sp == 0xFC && t.p == 0x04 && t.read 0x01FD == 0x30 &&
      t.read 0x01FE == 0x02 && t.read 0x01FF == 0x03) = true := by decide

/-- V103, `BRK`. -/
theorem test_brk_keeps_d : gives (step (at' 0x00 0x00 0x00 0xFF 0xCB 0x0300 [0x00]
      [(0xFFFE, 0x00), (0xFFFF, 0x80)]))
    (fun t => t.pc == 0x8000 && t.sp == 0xFC && t.p == 0xCF && t.read 0x01FD == 0xFB &&
      t.read 0x01FE == 0x02 && t.read 0x01FF == 0x03) = true := by decide

/-- V105, `NOP`. -/
theorem test_nop : gives (step (at' 0x12 0x00 0x00 0x00 0xFF 0x0200 [0xEA] []))
    (fun t => t.pc == 0x0201 && t.p == 0xFF) = true := by decide

/-- V106, `ILL (0x02)`. -/
theorem test_ill : gives (step (at' 0x00 0x00 0x00 0x00 0x00 0x0200 [0x02] []))
    (fun t => t.pc == 0x0201 && t.p == 0x00) = true := by decide

/-- V107, `ILL (0xFF)`. -/
theorem test_ill_pc_wraps : gives (step (at' 0x00 0x00 0x00 0x00 0x00 0xFFFF [0xFF] []))
    (fun t => t.pc == 0x0000 && t.p == 0x00) = true := by decide

/-- V60, `JSR $2000`. -/
theorem test_jsr_literal : gives (stepWith { params with retConv := .literal }
      (at' 0x00 0x00 0x00 0xFD 0x00 0x1000 [0x20, 0x00, 0x20] []))
    (fun t => t.pc == 0x2000 && t.sp == 0xFB && t.p == 0x00 && t.read 0x01FC == 0x03 && t.read 0x01FD == 0x10) = true := by decide

/-- V104, `BRK`. -/
theorem test_brk_other_parameters : gives (stepWith { params with brkSkip := false, intSetsI := false }
      (at' 0x00 0x00 0x00 0xFF 0x00 0x0300 [0x00]
      [(0xFFFE, 0x00), (0xFFFF, 0x80)]))
    (fun t => t.pc == 0x8000 && t.sp == 0xFC && t.p == 0x00 && t.read 0x01FD == 0x30 &&
      t.read 0x01FE == 0x01 && t.read 0x01FF == 0x03) = true := by decide

/-- V108, `irq()`. -/
theorem test_irq : gives (applyOp params .irq (at' 0x00 0x00 0x00 0xFF 0xC1 0x1234 []
      [(0xFFFE, 0x00), (0xFFFF, 0x90)]))
    (fun t => t.pc == 0x9000 && t.sp == 0xFC && t.p == 0xC5 && t.read 0x01FD == 0xE1 &&
      t.read 0x01FE == 0x34 && t.read 0x01FF == 0x12) = true := by decide

/-- V109, `irq() with I=1`. -/
theorem test_irq_masked : gives (applyOp params .irq (at' 0x00 0x00 0x00 0xFF 0x04 0x1234 []
      [(0xFFFE, 0x00), (0xFFFF, 0x90)]))
    (fun t => t.pc == 0x1234 && t.p == 0x04) = true := by decide

/-- V110, `nmi() with I=1`. -/
theorem test_nmi : gives (applyOp params .nmi (at' 0x00 0x00 0x00 0xFF 0x34 0x1234 []
      [(0xFFFA, 0x00), (0xFFFB, 0xA0)]))
    (fun t => t.pc == 0xA000 && t.sp == 0xFC && t.p == 0x34 && t.read 0x01FD == 0x24 &&
      t.read 0x01FE == 0x34 && t.read 0x01FF == 0x12) = true := by decide

/-- V111, `nmi() SP=0x01`. -/
theorem test_nmi_sp_wraps : gives (applyOp params .nmi (at' 0x00 0x00 0x00 0x01 0x00 0x1234 []
      [(0xFFFA, 0x00), (0xFFFB, 0xA0)]))
    (fun t => t.pc == 0xA000 && t.sp == 0xFE && t.p == 0x04 && t.read 0x0100 == 0x34 &&
      t.read 0x0101 == 0x12 && t.read 0x01FF == 0x20) = true := by decide

/-- V112, `reset()`. -/
theorem test_host_reset : gives (applyOp params .reset (at' 0x01 0x02 0x03 0xFD 0xFF 0x1234 []
      [(0xFFFC, 0x00), (0xFFFD, 0xC0)]))
    (fun t => t.pc == 0xC000 && t.a == 0x00 && t.x == 0x00 && t.y == 0x00 &&
      t.sp == 0x00 && t.p == 0x00) = true := by decide

/-- `step()`'s count: 7 for BRK, 2 for a branch whether taken or not, 2 for the stub (70_reset_and_hazards.md R226). -/
theorem test_cycles :
    State.reset.stepCycles params = 7 ∧ (State.reset.withFetchWord 16 0x05D0).stepCycles params = 2 ∧
    (State.reset.withFetchWord 8 0x02).stepCycles params = 2 := by decide

/-- Assembler spellings of R55, and the offset byte of the branch of program P1 (95_test_vectors.md). -/
theorem test_assembly :
    Instr.assembly 0x0200 (.sta (.indY 0x20)) = "STA ($20),Y" ∧ Instr.assembly 0x020A (.bne 0xF8) = "BNE $0204" ∧
    branchOffset 0x020A 0x0204 = 0xF8 := by decide

/-! ## Witnesses: the hypotheses of the statements are met -/

theorem witness_DecodeOfEncodeIsInstr : encode (.jmp (.ind 0x01FF)) = some [0x6C, 0xFF, 0x01] := by decide

theorem witness_EncodeOfDecodeIsConsumedBytes : decode [0xA9, 0x80, 0xEA] = .ok (.lda (.imm 0x80), [0xEA]) := rfl

/-- The state most witnesses start from: SP = 0xFF, PC = 0x0300, a store and vectors in memory. -/
def start (p : Byte) (code : List Byte) : State :=
  at' 0x42 0x07 0x20 0xFF p 0x0300 code [(0x0010, 0x55), (0xFFFB, 0xA0), (0xFFFF, 0x80)]

theorem witness_StepRunsDecodedInstr :
    decode [(start 0x00 [0xA9, 0x80]).read 0x0300, (start 0x00 [0xA9, 0x80]).read 0x0301,
      (start 0x00 [0xA9, 0x80]).read 0x0302] = .ok (.lda (.imm 0x80), [0x00]) := rfl

theorem witness_StepRecordsOpcode : ∃ t, step (start 0x00 [0xA9, 0x80]) = .next t := ⟨_, rfl⟩

theorem witness_StepAdvancesPcByLength : (∃ t, step (start 0x00 [0xA9, 0x80]) = .next t) ∧
    (start 0x00 [0xA9, 0x80]).fetchInstr.writesPC = false := ⟨⟨_, rfl⟩, by decide⟩

theorem witness_ImmediateIsByteAfterOpcode : (start 0x00 [0xA9, 0x80]).fetchInstr.mode = .immediate := by decide

/-- STA stores at the very address PC stands at. -/
theorem witness_StoreSeenByNextFetch :
    ∃ t, exec (.sta (.abs 0x0300)) (start 0x00 []) = .next t ∧ t.pc = (start 0x00 []).effAddr (.abs 0x0300) :=
  ⟨_, rfl, rfl⟩

/-- Both rows of the count: an assigned byte and an unassigned one. -/
theorem witness_StepReturnsBaseCycles :
    (start 0x00 [0xA9, 0x80]).fetchInstr = .lda (.imm 0x80) ∧ (start 0x00 [0x02]).fetchInstr = .ill 0x02 := by decide

theorem witness_StepKeepsMemoryCanonical :
    (start 0x00 [0x48]).mem.wf = true ∧ ∃ t, step (start 0x00 [0x48]) = .next t := ⟨by decide, _, rfl⟩

theorem witness_HostRunKeepsMemoryCanonical :
    (start 0x00 [0x48]).mem.wf = true ∧
    ∃ t, runOps params [.step, .irq, .nmi, .write 0x0000 0x01, .reset] (start 0x00 [0x48]) = .next t := ⟨by decide, _, rfl⟩

/-- Two memories that reach one form by different writes. -/
theorem witness_CanonicalMemoryIsItsBytes :
    let m := Memory.put (Memory.put [] 0x0010 0x55) 0xFFFF 0x80
    let m' := Memory.put (Memory.put [] 0xFFFF 0x80) 0x0010 0x55
    m.wf = true ∧ m'.wf = true ∧ ∀ a : Word, Memory.byteAt m a.toNat = Memory.byteAt m' a.toNat :=
  ⟨by decide, by decide, fun _ => rfl⟩

/-- A, X, Y and SP each have an instruction that does not write them. -/
theorem witness_RegistersWrittenOnlyByTheirWriters :
    (∃ t, exec .tsx (start 0x00 []) = .next t) ∧ Reg.a ∉ Instr.tsx.regsWritten ∧ Reg.y ∉ Instr.tsx.regsWritten ∧
    Reg.sp ∉ Instr.tsx.regsWritten ∧ Reg.x ∉ Instr.tya.regsWritten := ⟨⟨_, rfl⟩, by decide, by decide, by decide, by decide⟩

theorem witness_FlagsWrittenOnlyAsInTable :
    (∃ t, exec (.adc (.imm 0x01)) (start 0x0C []) = .next t) ∧ Flag.d ∉ (Instr.adc (.imm 0x01)).flagsWritten ∧
    Flag.i ∉ (Instr.adc (.imm 0x01)).flagsWritten := ⟨⟨_, rfl⟩, by decide, by decide⟩

theorem witness_MemoryChangesOnlyAtStoreTargets :
    (∃ t, exec .brk (start 0x00 []) = .next t) ∧ 0x0010 ∉ Instr.brk.storedTo (start 0x00 []) ∧
    0x01FC ∉ Instr.brk.storedTo (start 0x00 []) := ⟨⟨_, rfl⟩, by decide, by decide⟩

theorem witness_DecimalFlagInfluencesNothing :
    (Instr.adc (.imm 0x05) ≠ .php) ∧ (Instr.adc (.imm 0x05) ≠ .brk) ∧
    ∃ t, exec (.adc (.imm 0x05)) (start 0x00 []) = .next t := ⟨by decide, by decide, _, rfl⟩

/-- Every flag is clear in one state and set in another: each branch is taken somewhere and not taken somewhere. -/
theorem witness_BranchesTakenExactlyOnFlag (f : Flag) :
    (start 0x00 []).flag f = false ∧ (start 0xFF []).flag f = true := by cases f <;> decide

/-- The two ends of the range: a label 128 bytes before and 127 after the next instruction. -/
theorem witness_AssembledBranchReachesLabel :
    ((0x0280 : Word) - (0x02FE + 2)).toInt = -128 ∧ ((0x037F : Word) - (0x02FE + 2)).toInt = 127 ∧
    (start 0x00 []).pc = 0x02FE + 2 ∧ (start 0x00 []).flag .z = false := by decide

theorem witness_CallThenReturnComesBack (p : Params) :
    ∃ t t' : State, execWith p (.jsr 0x2000) (start 0x00 []) = .next t ∧ t'.sp = t.sp ∧
      ∀ addr, addr ∈ [stackSlot 0xFF, stackSlot 0xFE] → t'.read addr = t.read addr :=
  ⟨_, _, rfl, rfl, fun _ _ => rfl⟩

/-- What RtiResumesAfterEntry asks of the handler, met by a handler that ran nothing. -/
def kept (t t' : State) : Prop :=
  t'.sp = t.sp ∧
    ∀ addr, addr ∈ [stackSlot 0xFF, stackSlot (0xFF - 1), stackSlot (0xFF - 2)] → t'.read addr = t.read addr

/-- The `nmi()` case. -/
theorem witness_RtiResumesAfterEntry_nmi :
    ∃ t t', t = (start 0x00 []).nmi params ∧ (start 0x00 []).sp = 0xFF ∧ kept t t' :=
  ⟨_, _, rfl, rfl, rfl, fun _ _ => rfl⟩

/-- The `irq()` case. -/
theorem witness_RtiResumesAfterEntry_irq :
    ∃ t t', (start 0x00 []).flag .i = false ∧ t = (start 0x00 []).irq params ∧ (start 0x00 []).sp = 0xFF ∧ kept t t' :=
  ⟨_, _, by decide, rfl, rfl, rfl, fun _ _ => rfl⟩

/-- The BRK case, whichever value P_BRK_SKIP has. -/
theorem witness_RtiResumesAfterEntry_brk (p : Params) :
    ∃ t t', execWith p .brk (start 0x00 []) = .next t ∧ (start 0x00 []).sp = 0xFF ∧ kept t t' :=
  ⟨_, _, rfl, rfl, rfl, fun _ _ => rfl⟩

theorem witness_NopAndIllDoNothing :
    (start 0x00 [0xEA]).fetchInstr = .nop ∧ (start 0x00 [0x02]).fetchInstr = .ill 0x02 := by decide

theorem witness_IrqTakenExactlyWhenEnabled :
    (start 0x04 []).flag .i = true ∧ (start 0x00 []).flag .i = false := by decide

theorem witness_InterruptOrder : params.intSetsI = true ∧ (start 0x00 []).flag .i = false := by decide

end Sys2Proof.Tests
end

namespace Sys2Proof.Machine

/-- Every instruction has a next state from every state (00_scope.md R11). The split is over the instruction alone: each
arm of `exec` is a `.next` as it stands, so no state, operand or flag can make one stop. -/
theorem exec_hasNext (i : Instr) (s : State) : ∃ t, exec i s = .next t := by
  cases i <;> exact ⟨_, rfl⟩

/-- Settles O9: a step is one `exec`, of whatever instruction the bytes at PC decode to. -/
theorem everyStepHasNextState : Obligations.EveryStepHasNextState := by
  intro s
  rw [step_eq]
  exact exec_hasNext s.fetchInstr (s.consume s.fetchInstr)

end Sys2Proof.Machine

namespace Sys2Proof

/-! ### The length of an instruction and its operand bytes (30_encoding.md R42, R54) -/

/-- No mode has more operand bytes than the longest instruction holds (R42). -/
theorem Mode.operandBytes_le_two (m : Mode) : m.operandBytes ≤ 2 := by cases m <;> decide

/-- Settles O4: no opcode byte is rejected, so the only decode error is a short list, and two bytes are enough for any
mode. -/
theorem everyByteStringDecodes : Obligations.EveryByteStringDecodes := by
  intro op b1 b2 rest
  have enough : ¬ (b1 :: b2 :: rest).length < (decodeBytes op b1 b2).mode.operandBytes := by
    have := (decodeBytes op b1 b2).mode.operandBytes_le_two
    simp only [List.length_cons]
    omega
  exact ⟨_, _, (decode_cons op (b1 :: b2 :: rest)).trans (if_neg enough)⟩

/-- The bytes of a word joined from a high and a low byte, low byte first (R42). -/
@[simp] theorem wordBytes_joinBytes (hi lo : Byte) : wordBytes (joinBytes hi lo) = [lo, hi] := by simp [wordBytes]

namespace Table

/-- A memory operand of one mode for all bytes, made of the bytes that follow the opcode, in order (R42). -/
def FixedOperand (f : Byte → Byte → MemOperand) : Prop :=
  ∃ m : Mode, ∀ b1 b2, (f b1 b2).mode = m ∧ (f b1 b2).bytes = [b1, b2].take m.operandBytes

@[simp] theorem zp_fixedOperand : FixedOperand zp := ⟨.zeroPage, fun _ _ => ⟨rfl, rfl⟩⟩
@[simp] theorem zpX_fixedOperand : FixedOperand zpX := ⟨.zeroPageX, fun _ _ => ⟨rfl, rfl⟩⟩
@[simp] theorem zpY_fixedOperand : FixedOperand zpY := ⟨.zeroPageY, fun _ _ => ⟨rfl, rfl⟩⟩
@[simp] theorem indX_fixedOperand : FixedOperand indX := ⟨.indirectX, fun _ _ => ⟨rfl, rfl⟩⟩
@[simp] theorem indY_fixedOperand : FixedOperand indY := ⟨.indirectY, fun _ _ => ⟨rfl, rfl⟩⟩
@[simp] theorem abs_fixedOperand : FixedOperand abs := ⟨.absolute, fun b1 b2 => ⟨rfl, wordBytes_joinBytes b2 b1⟩⟩
@[simp] theorem absX_fixedOperand : FixedOperand absX := ⟨.absoluteX, fun b1 b2 => ⟨rfl, wordBytes_joinBytes b2 b1⟩⟩
@[simp] theorem absY_fixedOperand : FixedOperand absY := ⟨.absoluteY, fun b1 b2 => ⟨rfl, wordBytes_joinBytes b2 b1⟩⟩

/-- A dispatch entry of one mode for all bytes, whose operand bytes are the first bytes after the opcode, as many as the
mode has (R42). -/
def FixedMode (e : Entry) : Prop :=
  ∃ m : Mode, ∀ op b1 b2, (e op b1 b2).mode = m ∧ (e op b1 b2).operandBytes = [b1, b2].take m.operandBytes

@[simp] theorem illegal_fixedMode : FixedMode illegal := ⟨.implied, fun _ _ _ => ⟨rfl, rfl⟩⟩

@[simp] theorem jumpAbs_fixedMode : FixedMode jumpAbs := ⟨.absolute, fun _ b1 b2 => ⟨rfl, wordBytes_joinBytes b2 b1⟩⟩

@[simp] theorem jumpInd_fixedMode : FixedMode jumpInd := ⟨.indirect, fun _ b1 b2 => ⟨rfl, wordBytes_joinBytes b2 b1⟩⟩

@[simp] theorem callAbs_fixedMode : FixedMode callAbs := ⟨.absolute, fun _ b1 b2 => ⟨rfl, wordBytes_joinBytes b2 b1⟩⟩

/-- An Implied entry has no operand byte (R49). -/
theorem implied_fixedMode {i : Instr} (h : i.mode = .implied ∧ i.operandBytes = []) : FixedMode (implied i) :=
  ⟨.implied, fun _ _ _ => h⟩

/-- A Relative entry's operand byte is the offset (R48). -/
theorem rel_fixedMode {f : Byte → Instr} (h : ∀ b, (f b).mode = .relative ∧ (f b).operandBytes = [b]) :
    FixedMode (rel f) :=
  ⟨.relative, fun _ b1 _ => h b1⟩

/-- An Immediate entry's operand byte is the literal (R49). -/
theorem imm_fixedMode {f : ReadOperand → Instr} (h : ∀ o, (f o).mode = o.mode ∧ (f o).operandBytes = o.bytes) :
    FixedMode (imm f) :=
  ⟨.immediate, fun _ b1 _ => h (.imm b1)⟩

/-- An Accumulator entry has no operand byte (R49). -/
theorem accum_fixedMode {f : RmwOperand → Instr} (h : ∀ o, (f o).mode = o.mode ∧ (f o).operandBytes = o.bytes) :
    FixedMode (accum f) :=
  ⟨.accumulator, fun _ _ _ => h .acc⟩

section
variable {g : Byte → Byte → MemOperand}

/-- An entry whose operand is always in memory has a fixed mode exactly when the operand has. -/
theorem st_fixedMode {f : MemOperand → Instr} (h : ∀ o, (f o).mode = o.mode ∧ (f o).operandBytes = o.bytes) :
    FixedMode (st f g) ↔ FixedOperand g := by
  simp only [FixedMode, FixedOperand, st, h, forall_const]

/-- An entry that reads a memory operand has a fixed mode exactly when the operand has. -/
theorem rd_fixedMode {f : ReadOperand → Instr} (h : ∀ o, (f o).mode = o.mode ∧ (f o).operandBytes = o.bytes) :
    FixedMode (rd f g) ↔ FixedOperand g :=
  st_fixedMode fun m => h (.mem m)

/-- A shift or rotate of a memory operand has a fixed mode exactly when the operand has. -/
theorem rmw_fixedMode {f : RmwOperand → Instr} (h : ∀ o, (f o).mode = o.mode ∧ (f o).operandBytes = o.bytes) :
    FixedMode (rmw f g) ↔ FixedOperand g :=
  st_fixedMode fun m => h (.mem m)

end

/-- Every cell of the opcode map (R51) has a fixed mode, by the lemma of the function that builds the cell; what that lemma
asks of the cell's instruction holds by the definitions of `Instr.mode` and `Instr.operandBytes`. The first pass opens the
map, the second closes the Implied cells, whose condition names no operand, the third the others. -/
theorem rows_fixedMode : ∀ row ∈ rows, ∀ e ∈ row, FixedMode e := by
  simp only [rows, row0, row1, row2, row3, row4, row5, row6, row7, row8, row9, rowA, rowB, rowC, rowD, rowE, rowF,
    List.forall_mem_cons, List.not_mem_nil, false_imp_iff, forall_const, and_true]
  simp (disch := exact ⟨rfl, rfl⟩) only [implied_fixedMode]
  simp (disch := exact fun _ => ⟨rfl, rfl⟩) [rel_fixedMode, imm_fixedMode, accum_fixedMode, st_fixedMode, rd_fixedMode,
    rmw_fixedMode]

end Table

/-- What holds of a list's members and of the default holds of a lookup with that default. -/
theorem forall_getD {α : Type} {P : α → Prop} {l : List α} {d : α} (hl : ∀ x ∈ l, P x) (hd : P d) (n : Nat) :
    P (l.getD n d) := by
  rw [List.getD_eq_getElem?_getD]
  cases h : l[n]? with
  | none => exact hd
  | some x => exact hl x (List.mem_of_getElem? h)

/-- The entry the table selects has a mode fixed by the opcode byte (R42, R50). -/
theorem dispatch_fixedMode (op : Byte) : Table.FixedMode (dispatch op) := by
  have row : ∀ e ∈ Table.rows.getD (op.toNat / 16) [], Table.FixedMode e :=
    forall_getD (P := fun row => ∀ e ∈ row, Table.FixedMode e) Table.rows_fixedMode (by simp) _
  exact forall_getD row Table.illegal_fixedMode _

/-- Settles O5: the entry at an opcode byte is of one mode, and that mode fixes the operand bytes and the length. -/
theorem lengthFromOpcodeAlone : Obligations.LengthFromOpcodeAlone := by
  intro op b1 b2 c1 c2 i
  obtain ⟨m, h⟩ := dispatch_fixedMode op
  have hmode : i.mode = m := (h op b1 b2).1
  have hlength : i.length = 1 + m.operandBytes := by rw [Instr.length, hmode]
  refine ⟨hmode.trans (h op c1 c2).1.symm, ?_, ?_⟩
  · rw [hlength, Nat.add_sub_cancel_left]
    exact (h op b1 b2).2
  · rw [hlength, hmode]
    cases m <;> rfl

end Sys2Proof

namespace Sys2Proof.Machine

/-- Bit 7 of a difference of bytes, in the naturals: 256 is added first, so that the subtraction does not truncate (R90). -/
theorem msb_sub_eq_decide (r m : Byte) : (r - m).msb = decide (128 ≤ (r.toNat + 256 - m.toNat) % 256) := by
  have sum : 2 ^ 8 - m.toNat + r.toNat = r.toNat + 256 - m.toNat := by
    have := m.isLt
    omega
  rw [BitVec.msb_eq_decide, BitVec.toNat_sub, sum]

/-- Compare writes no register, no memory byte and no flag but C, Z and N (R90). -/
theorem State.compare_frame (s : State) (r m : Byte) : Frame [] [.c, .z, .n] [] s (s.compare r m) := by
  refine Frame.of (fun _ => rfl) (fun _ => rfl) (fun _ => rfl) (fun _ => rfl) ?_ (fun _ _ => rfl) rfl
  intro f hf
  simp only [List.mem_cons, not_or] at hf
  obtain ⟨hc, hz, hn, -⟩ := hf
  rw [State.compare_flag, if_neg hn, if_neg hz, if_neg hc]

/-- An instruction that answers Compare of one register and its operand has the shape of CMP, CPX and CPY. The flags come
from `compare_flag`, which has no carry-in. -/
theorem comparesReg_of_exec {i : ReadOperand → Instr} {r : Reg}
    (h : ∀ o s, exec (i o) s = .next (s.compare (s.reg r) (s.operand o))) : ComparesReg i r := by
  intro o s
  have hc : (s.compare (s.reg r) (s.operand o)).flag .c = (s.operand o).ule (s.reg r) := State.compare_flag _ _ _ .c
  have hz : (s.compare (s.reg r) (s.operand o)).flag .z = (s.reg r == s.operand o) := State.compare_flag _ _ _ .z
  have hn : (s.compare (s.reg r) (s.operand o)).flag .n = (s.reg r - s.operand o).msb := State.compare_flag _ _ _ .n
  exact ⟨_, h o s, hc, hz, hn.trans (msb_sub_eq_decide _ _), rfl, State.compare_frame _ _ _⟩

/-- Settles O32: CMP, CPX and CPY are Compare of A, X and Y. -/
theorem comparesSetFlagsOnly : Obligations.ComparesSetFlagsOnly :=
  ⟨comparesReg_of_exec exec_cmp, comparesReg_of_exec exec_cpx, comparesReg_of_exec exec_cpy⟩

end Sys2Proof.Machine

namespace Sys2Proof.Machine

/-- A zeroed status byte holds no flag (R26). -/
@[simp] theorem getFlag_zero (f : Flag) : getFlag 0x00 f = false := BitVec.getLsbD_zero

/-- Power-on memory lists no address, so each one reads as cleared (R220). -/
@[simp] theorem State.reset_read (addr : Word) : State.reset.read addr = 0x00 := rfl

/-- Opcode byte 0x00 is BRK whatever bytes follow it (R51). -/
@[simp] theorem decodeBytes_zero (b1 b2 : Byte) : decodeBytes 0x00 b1 b2 = .brk := rfl

/-- A state whose byte at PC is 0x00 executes BRK next (R44). -/
theorem State.fetchInstr_eq_brk {s : State} (h : s.read s.pc = 0x00) : s.fetchInstr = .brk := by
  rw [State.fetchInstr, State.fetchOpcode, h, decodeBytes_zero]

/-- Settles O57: the registers are fields of the power-on state, each flag is a bit of its zeroed P, and the byte its PC
selects is one of the cleared memory. -/
theorem powerOnStateIsZero : Obligations.PowerOnStateIsZero := by
  have registers : ∀ r, State.reset.reg r = 0x00 := by
    intro r
    cases r <;> rfl
  exact ⟨registers, rfl, getFlag_zero, rfl, rfl, State.reset_read, State.fetchInstr_eq_brk (State.reset_read _)⟩

end Sys2Proof.Machine

namespace Sys2Proof

/-! ### The opcode map and the table of codes, two readings of one map (30_encoding.md R51, R52, R53) -/

/-- A cell of the opcode map whose instruction has one code, whatever the operand bytes are. -/
def Table.FixedCode (e : Table.Entry) : Prop := ∀ op b1 b2, (e op b1 b2).opcode = (e op 0 0).opcode

/-- Every cell of the opcode map (R51) is of that kind: whichever constructor builds the cell, its row of R52 depends on
the mode alone, so both sides compute to the same code. -/
theorem Table.rows_fixedCode : ∀ row ∈ rows, ∀ e ∈ row, FixedCode e := by
  simp only [rows, row0, row1, row2, row3, row4, row5, row6, row7, row8, row9, rowA, rowB, rowC, rowD, rowE, rowF,
    List.forall_mem_cons, List.not_mem_nil, false_imp_iff, implies_true, and_true]
  and_intros <;> exact fun _ _ _ => rfl

/-- The entry the table selects is of that kind. -/
theorem dispatch_fixedCode (op : Byte) : Table.FixedCode (dispatch op) := by
  have row : ∀ e ∈ Table.rows.getD (op.toNat / 16) [], Table.FixedCode e :=
    forall_getD (P := fun row => ∀ e ∈ row, Table.FixedCode e) Table.rows_fixedCode (by simp) _
  exact forall_getD row (fun _ _ _ => rfl) _

/-- The two readings of the spec agree at each of the 256 opcode bytes: the code R52 gives the instruction in R51's cell
is the cell's own byte. One operand suffices here, by `dispatch_fixedCode`. -/
theorem opcode_decodeBytes_zero : ∀ op : Byte, (decodeBytes op 0 0).opcode = some op := by decide

/-- What is decoded at an opcode byte has that byte as its code, whatever follows it (R51, R52, R53). -/
theorem opcode_decodeBytes (op b1 b2 : Byte) : (decodeBytes op b1 b2).opcode = some op :=
  (dispatch_fixedCode op op b1 b2).trans (opcode_decodeBytes_zero op)

/-- Well-formedness is having a code: the modes `Instr.wf` lists are the non-empty cells of R52. -/
theorem Instr.wf_eq_isSome_opcode (i : Instr) : i.wf = i.opcode.isSome := by
  cases i with
  | adc o | sbc o | and o | ora o | eor o | cmp o | cpx o | cpy o | lda o | ldx o | ldy o =>
    cases o with
    | imm b => rfl
    | mem m => cases m <;> rfl
  | asl o | lsr o | rol o | ror o =>
    cases o with
    | acc => rfl
    | mem m => cases m <;> rfl
  | bit m | inc m | dec m | sta m | stx m | sty m => cases m <;> rfl
  | ill op => by_cases h : op ∈ unassignedOpcodes <;> simp [Instr.wf, Instr.opcode, h]
  | jmp o => cases o <;> rfl
  | _ => rfl

/-- R51's cell at each byte of R53's list is the stub. -/
theorem dispatch_unassigned : ∀ op ∈ unassignedOpcodes, dispatch op = Table.illegal := by
  simp only [unassignedOpcodes, List.cons_append, List.nil_append, List.forall_mem_cons, List.not_mem_nil,
    false_imp_iff, implies_true, and_true]
  and_intros <;> rfl

/-- Two functions of a 16-bit operand agree when they agree up to splitting the operand into its bytes and joining them.
-/
theorem forall_rejoined {α : Type} {f g : Word → α} (h : ∀ w, g w = f (joinBytes (hiByte w) (loByte w))) :
    ∀ w, g w = f w := by
  intro w
  rw [h, joinBytes_bytes]

/-- Decoding an instruction's code followed by its operand bytes gives the instruction back (R42, R51, R52). An empty
cell of R52 has no code, which closes its case; a 16-bit operand comes back as its two bytes joined. -/
theorem decodeBytes_operandBytes {i : Instr} {op : Byte} (h : i.opcode = some op) (rest : List Byte) :
    decodeBytes op ((i.operandBytes ++ rest).getD 0 0) ((i.operandBytes ++ rest).getD 1 0) = i := by
  cases i with
  | adc o | sbc o | and o | ora o | eor o | cmp o | cpx o | cpy o | lda o | ldx o | ldy o =>
    cases o with
    | imm b => cases h; rfl
    | mem m =>
      cases m with
      | abs a | absX a | absY a => cases h <;> (revert a; exact forall_rejoined fun _ => rfl)
      | _ => cases h <;> rfl
  | asl o | lsr o | rol o | ror o =>
    cases o with
    | acc => cases h; rfl
    | mem m =>
      cases m with
      | abs a | absX a | absY a => cases h <;> (revert a; exact forall_rejoined fun _ => rfl)
      | _ => cases h <;> rfl
  | bit m | inc m | dec m | sta m | stx m | sty m =>
    cases m with
    | abs a | absX a | absY a => cases h <;> (revert a; exact forall_rejoined fun _ => rfl)
    | _ => cases h <;> rfl
  | jmp o =>
    cases o with
    | abs a | ind a => cases h; revert a; exact forall_rejoined fun _ => rfl
  | jsr a => cases h; revert a; exact forall_rejoined fun _ => rfl
  | ill b =>
    obtain ⟨hb, rfl⟩ : b ∈ unassignedOpcodes ∧ b = op := by simpa [Instr.opcode] using h
    rw [decodeBytes, dispatch_unassigned b hb, Table.illegal]
  | _ => cases h; rfl

end Sys2Proof

namespace Sys2Proof
open Machine

/-! ### Decoding and encoding byte lists -/

/-- An instruction has as many operand bytes as its mode says (R42). -/
theorem Instr.length_operandBytes (i : Instr) : i.operandBytes.length = i.mode.operandBytes := by
  cases i with
  | adc o | sbc o | and o | ora o | eor o | cmp o | cpx o | cpy o | lda o | ldx o | ldy o => exact o.bytes_length
  | asl o | lsr o | rol o | ror o | jmp o => exact o.bytes_length
  | bit m | inc m | dec m | sta m | stx m | sty m => exact m.bytes_length
  | _ => rfl

/-- When the decoder answers, and what: the instruction of the three bytes and the bytes after its operand (R42). -/
theorem decode_cons_eq_ok {op : Byte} {rest left : List Byte} {i : Instr} :
    decode (op :: rest) = .ok (i, left) ↔
      i = decodeBytes op (rest.getD 0 0) (rest.getD 1 0) ∧ i.mode.operandBytes ≤ rest.length ∧
        left = rest.drop i.mode.operandBytes := by
  rw [decode_cons]
  split
  · rename_i short
    simp only [reduceCtorEq, false_iff, not_and]
    rintro rfl long
    omega
  · rename_i long
    simp only [Except.ok.injEq, Prod.mk.injEq]
    constructor
    · rintro ⟨rfl, rfl⟩
      exact ⟨rfl, Nat.not_lt.mp long, rfl⟩
    · rintro ⟨rfl, -, rfl⟩
      exact ⟨rfl, rfl⟩

/-- Settles O1: the operand bytes the encoder writes are enough for the mode, and decode to the operand. -/
theorem decodeOfEncodeIsInstr : Obligations.DecodeOfEncodeIsInstr := by
  intro i bs rest h
  obtain ⟨op, hop, rfl⟩ := encode_eq_some.mp h
  refine decode_cons_eq_ok.mpr ⟨(decodeBytes_operandBytes hop rest).symm, ?_, ?_⟩
  · simp [i.length_operandBytes]
  · rw [← i.length_operandBytes]
    exact List.drop_left.symm

/-- As many of a list's first two bytes as the list has are its first bytes. -/
theorem take_getD_getD {l : List Byte} {n : Nat} (hn : n ≤ 2) (hl : n ≤ l.length) :
    [l.getD 0 0, l.getD 1 0].take n = l.take n := by
  match n, l with
  | 0, _ => rfl
  | 1, _ :: _ => rfl
  | 2, _ :: _ :: _ => rfl

/-- The operand bytes of a decoded instruction are the bytes after its opcode (R42). -/
theorem operandBytes_decodeBytes (op b1 b2 : Byte) :
    (decodeBytes op b1 b2).operandBytes = [b1, b2].take (decodeBytes op b1 b2).mode.operandBytes := by
  obtain ⟨m, h⟩ := dispatch_fixedMode op
  obtain ⟨hmode, hbytes⟩ := h op b1 b2
  rw [decodeBytes, hmode, hbytes]

/-- Settles O2: the code of what was decoded is the byte decoded from, and its operand bytes are the bytes dropped. -/
theorem encodeOfDecodeIsConsumedBytes : Obligations.EncodeOfDecodeIsConsumedBytes := by
  intro bs rest i h
  cases bs with
  | nil => cases h
  | cons op tail =>
    obtain ⟨hi, hlong, rfl⟩ := decode_cons_eq_ok.mp h
    have hop : i.opcode = some op := hi ▸ opcode_decodeBytes op _ _
    have hbytes : i.operandBytes = tail.take i.mode.operandBytes := by
      rw [← take_getD_getD i.mode.operandBytes_le_two hlong, hi]
      exact operandBytes_decodeBytes op _ _
    refine ⟨_, encode_eq_some.mpr ⟨op, hop, rfl⟩, ?_⟩
    rw [hbytes, List.cons_append, List.take_append_drop]

/-- Settles O3: both being well-formed and being encodable are having a code, and what is decoded has one. -/
theorem wellFormedExactlyWhenEncodable : Obligations.WellFormedExactlyWhenEncodable := by
  constructor
  · intro i
    rw [i.wf_eq_isSome_opcode, Option.isSome_iff_exists]
    simp [encode_eq_some]
  · intro op b1 b2
    rw [Instr.wf_eq_isSome_opcode, opcode_decodeBytes, Option.isSome_some]

/-- The stub has a code on an unassigned byte only, and it is that byte (R53). -/
theorem Instr.opcode_ill_eq_some {b op : Byte} :
    (Instr.ill b).opcode = some op ↔ b ∈ unassignedOpcodes ∧ b = op := by
  simp [Instr.opcode]

/-- A byte decodes to the stub exactly when it is unassigned, and the stub carries that byte (R53). -/
theorem decodeBytes_eq_ill {op b1 b2 b : Byte} :
    decodeBytes op b1 b2 = .ill b ↔ op ∈ unassignedOpcodes ∧ b = op := by
  constructor
  · intro h
    obtain ⟨hb, rfl⟩ := Instr.opcode_ill_eq_some.mp (h ▸ opcode_decodeBytes op b1 b2)
    exact ⟨hb, rfl⟩
  · rintro ⟨hop, rfl⟩
    rw [decodeBytes, dispatch_unassigned b hop, Table.illegal]

/-- Settles O6: the list and the stub's length are as counted. -/
theorem unassignedOpcodesAreIll : Obligations.UnassignedOpcodesAreIll :=
  ⟨fun _ _ _ => decodeBytes_eq_ill.trans (and_iff_left rfl), rfl, fun _ => rfl⟩

/-- Settles O7: each word is decoded by evaluation. -/
theorem sampleWordsDecode : Obligations.SampleWordsDecode := by
  unfold Obligations.SampleWordsDecode
  decide

/-- Settles O8: an instruction decoded from the three bytes at PC is the one fetched. -/
theorem stepRunsDecodedInstr : Obligations.StepRunsDecodedInstr := by
  intro s i rest h
  have fetched : i = s.fetchInstr := (decode_cons_eq_ok.mp h).1
  rw [step_eq, ← fetched, State.consume_eq]

/-- Settles O12: Immediate has one operand byte, and it is the first after the opcode. -/
theorem immediateIsByteAfterOpcode : Obligations.ImmediateIsByteAfterOpcode := by
  intro s h
  have bytes := operandBytes_decodeBytes s.fetchOpcode (s.read (s.pc + 1)) (s.read (s.pc + 2))
  rw [← State.fetchInstr, h] at bytes
  exact bytes

/-- Settles O14: the fetched instruction is the stub exactly when the byte at PC is unassigned, which is what the count
asks. -/
theorem stepReturnsBaseCycles : Obligations.StepReturnsBaseCycles := by
  intro p s
  split
  · rename_i op h
    obtain ⟨hop, rfl⟩ := decodeBytes_eq_ill.mp h
    exact if_pos hop
  · rename_i h
    exact if_neg fun hop => h _ (decodeBytes_eq_ill.mpr ⟨hop, rfl⟩)

end Sys2Proof

namespace Sys2Proof.Machine

/-! ### The machine under given parameters (00_scope.md R8) -/

/-- The parameters of the model are the ones `exec` runs at. -/
theorem execWith_params (i : Instr) (s : State) : execWith params i s = exec i s := by
  cases i <;> rfl

theorem stepWith_params (s : State) : stepWith params s = step s := execWith_params _ _

/-- Settles O15: a step runs one instruction. -/
theorem stepIsTheMachineAtParams : Obligations.StepIsTheMachineAtParams := ⟨execWith_params, stepWith_params⟩

/-- Under any parameters every instruction has a next state (00_scope.md R11). -/
theorem execWith_hasNext (p : Params) (i : Instr) (s : State) : ∃ t, execWith p i s = .next t := by
  cases i <;> exact ⟨_, rfl⟩

/-- Every operation of the host has a next state (60_exceptions.md R200, R210). -/
theorem applyOp_hasNext (p : Params) (op : HostOp) (s : State) : ∃ t, applyOp p op s = .next t := by
  cases op with
  | step => exact execWith_hasNext p s.fetchInstr (s.consume s.fetchInstr)
  | _ => exact ⟨_, rfl⟩

/-- A run goes on from the state its first operation leaves. -/
theorem runOps_cons {p : Params} {op : HostOp} {s t : State} (h : applyOp p op s = .next t) (ops : List HostOp) :
    runOps p (op :: ops) s = runOps p ops t := by
  rw [runOps, h]

/-- Settles O19, by induction on the operations. -/
theorem hostRunNeverStops : Obligations.HostRunNeverStops := by
  intro p ops
  induction ops with
  | nil => exact fun s => ⟨s, rfl⟩
  | cons op ops ih =>
    intro s
    obtain ⟨t, ht⟩ := applyOp_hasNext p op s
    rw [runOps_cons ht]
    exact ih t

/-! ### Canonical memory -/

theorem State.push_inv {s : State} (h : s.Inv) (v : Byte) : (s.push v).Inv := State.write_mem_wf h (stackSlot s.sp) v

theorem State.call_inv {s : State} (h : s.Inv) (p : Params) (target : Word) : (s.call p target).Inv :=
  State.push_inv (State.push_inv h _) _

theorem State.putShifted_inv {s : State} (h : s.Inv) (loc : Loc) (r : Byte) (c : Bool) : (s.putShifted loc r c).Inv :=
  State.setLoc_mem_wf (s := s.setFlag .c c) h loc r

theorem State.branch_inv {s : State} (h : s.Inv) (cond : Bool) (off : Byte) : (s.branch cond off).Inv := by
  rw [State.branch_eq]
  exact h

/-- The return address BRK saves: PC has passed the opcode byte, and passes the signature byte when `P_BRK_SKIP` says so
(49_moves_control.md R162). -/
def breakReturn (p : Params) (pc : Word) : Word := if p.brkSkip then pc + 1 else pc

/-- BRK is an entry from the state whose PC is the return address (49_moves_control.md R162). -/
theorem State.break_eq (p : Params) (s : State) :
    s.break p = (s.setPC (breakReturn p s.pc)).enter p irqVector (softwareStatus s.p) := by
  rw [State.break, State.skipSignature_eq, breakReturn]

theorem State.setPC_inv {s : State} (h : s.Inv) (v : Word) : (s.setPC v).Inv := h

theorem State.break_inv {s : State} (h : s.Inv) (p : Params) : (s.break p).Inv := by
  rw [State.break_eq]
  exact State.enter_mem_wf (State.setPC_inv h _) p irqVector (softwareStatus s.p)

/-- Every instruction keeps memory canonical: those that write memory write single bytes, the others leave it. -/
theorem execWith_inv {p : Params} {i : Instr} {s t : State} (hs : s.Inv) (h : execWith p i s = .next t) : t.Inv := by
  cases i with
  | sta m | stx m | sty m | inc m | dec m => cases h; exact State.write_mem_wf hs _ _
  | asl o | lsr o | rol o | ror o => cases h; exact State.putShifted_inv hs _ _ _
  | bcc off | bcs off | beq off | bne off | bmi off | bpl off | bvc off | bvs off =>
    cases h; exact State.branch_inv hs _ _
  | pha | php => cases h; exact State.push_inv hs _
  | jsr target => cases h; exact State.call_inv hs p target
  | brk => cases h; exact State.break_inv hs p
  | _ => cases h; exact hs

theorem stepWith_inv {p : Params} {s t : State} (hs : s.Inv) (h : stepWith p s = .next t) : t.Inv :=
  execWith_inv (s := s.consume s.fetchInstr) hs h

/-- Settles O16: a step is one instruction, run from a state with the same memory. -/
theorem stepKeepsMemoryCanonical : Obligations.StepKeepsMemoryCanonical := by
  intro s t hs h
  rw [← stepWith_params] at h
  exact stepWith_inv hs h

/-- Settles O17: the memory of power-on lists no byte. -/
theorem resetMemoryCanonical : Obligations.ResetMemoryCanonical := rfl

theorem State.irq_inv {s : State} (h : s.Inv) (p : Params) : (s.irq p).Inv := by
  unfold State.irq
  split
  · exact h
  · exact State.enter_mem_wf h p _ _

/-- Every operation of the host keeps memory canonical. -/
theorem applyOp_inv {p : Params} {op : HostOp} {s t : State} (hs : s.Inv) (h : applyOp p op s = .next t) : t.Inv := by
  cases op with
  | step => exact stepWith_inv hs h
  | irq => cases h; exact State.irq_inv hs p
  | nmi => cases h; exact State.enter_mem_wf hs p _ _
  | reset => cases h; exact hs
  | write addr v => cases h; exact State.write_mem_wf hs addr v

/-- Settles O18, by induction on the operations. -/
theorem hostRunKeepsMemoryCanonical : Obligations.HostRunKeepsMemoryCanonical := by
  intro p ops
  induction ops with
  | nil =>
    intro s t hs h
    cases h
    exact hs
  | cons op ops ih =>
    intro s t hs h
    obtain ⟨u, hu⟩ := applyOp_hasNext p op s
    rw [runOps_cons hu] at h
    exact ih u t (applyOp_inv hs hu) h

/-- The canonical form of a memory with a first listed byte. -/
theorem Memory.wfFrom_cons {lo k : Nat} {v : Byte} {m : Memory} :
    Memory.wfFrom lo ((k, v) :: m) = true ↔
      lo ≤ k ∧ k < Memory.size ∧ v ≠ Memory.cleared ∧ Memory.wfFrom (k + 1) m = true := by
  simp only [Memory.wfFrom, Bool.and_eq_true, decide_eq_true_eq, and_assoc]

@[simp] theorem Memory.byteAt_cons_same (k : Nat) (v : Byte) (m : Memory) : Memory.byteAt ((k, v) :: m) k = v :=
  if_pos rfl

theorem Memory.byteAt_cons_ne {k a : Nat} (h : k ≠ a) (v : Byte) (m : Memory) :
    Memory.byteAt ((k, v) :: m) a = m.byteAt a := if_neg h

/-- Below where a canonical memory starts, every byte reads as cleared. -/
theorem Memory.byteAt_below {lo a : Nat} {m : Memory} (h : m.wfFrom lo = true) (ha : a < lo) :
    m.byteAt a = Memory.cleared := by
  induction m generalizing lo with
  | nil => rfl
  | cons c m ih =>
    obtain ⟨k, v⟩ := c
    obtain ⟨hlo, -, -, hm⟩ := Memory.wfFrom_cons.mp h
    rw [Memory.byteAt_cons_ne (by omega)]
    exact ih hm (by omega)

/-- The first address a canonical memory lists is listed in every canonical memory that reads the same, so none of those
starts above it. -/
theorem Memory.le_head {lo lo' k : Nat} {v : Byte} {m m' : Memory} (h : Memory.wfFrom lo ((k, v) :: m) = true)
    (h' : m'.wfFrom lo' = true) (same : ∀ a, a < Memory.size → Memory.byteAt ((k, v) :: m) a = m'.byteAt a) :
    lo' ≤ k := by
  obtain ⟨-, hk, hv, -⟩ := Memory.wfFrom_cons.mp h
  by_contra below
  have head := same k hk
  rw [Memory.byteAt_cons_same, Memory.byteAt_below h' (Nat.not_le.mp below)] at head
  exact hv head

/-- A canonical memory starts at its first listed address. -/
theorem Memory.wfFrom_head {lo k : Nat} {v : Byte} {m : Memory} (h : Memory.wfFrom lo ((k, v) :: m) = true) :
    Memory.wfFrom k ((k, v) :: m) = true :=
  Memory.wfFrom_cons.mpr ⟨le_rfl, (Memory.wfFrom_cons.mp h).2⟩

/-- Canonical memories that read the same and start with the same address read the same without it. -/
theorem Memory.tail_same {k : Nat} {v v' : Byte} {m m' : Memory} (h : m.wfFrom (k + 1) = true)
    (h' : m'.wfFrom (k + 1) = true)
    (same : ∀ a, a < Memory.size → Memory.byteAt ((k, v) :: m) a = Memory.byteAt ((k, v') :: m') a) :
    ∀ a, a < Memory.size → m.byteAt a = m'.byteAt a := by
  intro a ha
  by_cases hka : k = a
  · rw [Memory.byteAt_below h (by omega), Memory.byteAt_below h' (by omega)]
  · simpa [Memory.byteAt_cons_ne hka] using same a ha

/-- Canonical memories that read the same are equal: by `le_head` both ways neither starts above the other, so their
first addresses agree, hence their first bytes, and the rest by induction. -/
theorem Memory.ext_of_wfFrom {lo lo' : Nat} {m m' : Memory} (h : m.wfFrom lo = true) (h' : m'.wfFrom lo' = true)
    (same : ∀ a, a < Memory.size → m.byteAt a = m'.byteAt a) : m = m' := by
  induction m generalizing lo lo' m' with
  | nil =>
    cases m' with
    | nil => rfl
    | cons c m' =>
      have := Memory.le_head (lo' := c.1 + 1) (m' := []) h' rfl fun a ha => (same a ha).symm
      omega
  | cons c m ih =>
    obtain ⟨k, v⟩ := c
    cases m' with
    | nil =>
      have := Memory.le_head (lo' := k + 1) h rfl same
      omega
    | cons c' m' =>
      obtain ⟨k', v'⟩ := c'
      obtain rfl : k = k' := Nat.le_antisymm
        (Memory.le_head h' (Memory.wfFrom_head h) fun a ha => (same a ha).symm)
        (Memory.le_head h (Memory.wfFrom_head h') same)
      obtain ⟨-, hk, -, hm⟩ := Memory.wfFrom_cons.mp h
      obtain ⟨-, -, -, hm'⟩ := Memory.wfFrom_cons.mp h'
      obtain rfl : v = v' := by simpa using same k hk
      rw [ih hm hm' (Memory.tail_same hm hm' same)]

/-- Settles O20: the addresses below 65,536 are the words. -/
theorem canonicalMemoryIsItsBytes : Obligations.CanonicalMemoryIsItsBytes := by
  intro m m' h h' same
  refine Memory.ext_of_wfFrom h h' fun a ha => ?_
  have word := same (BitVec.ofNat 16 a)
  rwa [BitVec.toNat_ofNat, Nat.mod_eq_of_lt (show a < 2 ^ 16 from ha)] at word

end Sys2Proof.Machine

namespace Sys2Proof.Machine

/-! ### Frames: what each shared operation and each instruction may write -/

/-- A frame with longer lists says less. -/
theorem Frame.mono {rs rs' : List Reg} {fs fs' : List Flag} {addrs addrs' : List Word} {s t : State}
    (h : Frame rs fs addrs s t) (hr : rs ⊆ rs') (hf : fs ⊆ fs') (ha : addrs ⊆ addrs') :
    Frame rs' fs' addrs' s t where
  regs r hn := h.regs r fun hm => hn (hr hm)
  flags f hn := h.flags f fun hm => hn (hf hm)
  mem addr hn := h.mem addr fun hm => hn (ha hm)
  opcode := h.opcode

/-- What two operations one after the other may write. -/
theorem Frame.trans {rs rs' : List Reg} {fs fs' : List Flag} {addrs addrs' : List Word} {s t u : State}
    (h : Frame rs fs addrs s t) (h' : Frame rs' fs' addrs' t u) :
    Frame (rs ++ rs') (fs ++ fs') (addrs ++ addrs') s u where
  regs r hn := by
    rw [List.mem_append, not_or] at hn
    exact (h'.regs r hn.2).trans (h.regs r hn.1)
  flags f hn := by
    rw [List.mem_append, not_or] at hn
    exact (h'.flags f hn.2).trans (h.flags f hn.1)
  mem addr hn := by
    rw [List.mem_append, not_or] at hn
    exact (h'.mem addr hn.2).trans (h.mem addr hn.1)
  opcode := h'.opcode.trans h.opcode

/-- A register that has its old value back leaves the frame's list. -/
theorem Frame.drop_reg {r : Reg} {rs : List Reg} {fs : List Flag} {addrs : List Word} {s t : State}
    (h : Frame (r :: rs) fs addrs s t) (hr : t.reg r = s.reg r) : Frame rs fs addrs s t where
  regs q hq := by
    by_cases hqr : q = r
    · rw [hqr, hr]
    · exact h.regs q (by simp [hqr, hq])
  flags := h.flags
  mem := h.mem
  opcode := h.opcode

/-- A flag that has its old value back leaves the frame's list. -/
theorem Frame.drop_flag {f : Flag} {rs : List Reg} {fs : List Flag} {addrs : List Word} {s t : State}
    (h : Frame rs (f :: fs) addrs s t) (hf : t.flag f = s.flag f) : Frame rs fs addrs s t where
  regs := h.regs
  flags g hg := by
    by_cases hgf : g = f
    · rw [hgf, hf]
    · exact h.flags g (by simp [hgf, hg])
  mem := h.mem
  opcode := h.opcode

theorem Frame.refl (s : State) : Frame [] [] [] s s := ⟨fun _ _ => rfl, fun _ _ => rfl, fun _ _ => rfl, rfl⟩

theorem State.setA_frame (s : State) (v : Byte) : Frame [.a] [] [] s (s.setA v) :=
  Frame.of (by simp) (fun _ => rfl) (fun _ => rfl) (fun _ => rfl) (fun _ _ => rfl) (fun _ _ => rfl) rfl

theorem State.setX_frame (s : State) (v : Byte) : Frame [.x] [] [] s (s.setX v) :=
  Frame.of (fun _ => rfl) (by simp) (fun _ => rfl) (fun _ => rfl) (fun _ _ => rfl) (fun _ _ => rfl) rfl

theorem State.setY_frame (s : State) (v : Byte) : Frame [.y] [] [] s (s.setY v) :=
  Frame.of (fun _ => rfl) (fun _ => rfl) (by simp) (fun _ => rfl) (fun _ _ => rfl) (fun _ _ => rfl) rfl

theorem State.setSP_frame (s : State) (v : Byte) : Frame [.sp] [] [] s (s.setSP v) :=
  Frame.of (fun _ => rfl) (fun _ => rfl) (fun _ => rfl) (by simp) (fun _ _ => rfl) (fun _ _ => rfl) rfl

theorem State.setPC_frame (s : State) (v : Word) : Frame [] [] [] s (s.setPC v) :=
  Frame.of (fun _ => rfl) (fun _ => rfl) (fun _ => rfl) (fun _ => rfl) (fun _ _ => rfl) (fun _ _ => rfl) rfl

/-- `allFlags` holds each flag. -/
theorem mem_allFlags (f : Flag) : f ∈ allFlags := by cases f <;> decide

theorem State.setP_frame (s : State) (v : Byte) : Frame [] allFlags [] s (s.setP v) :=
  Frame.of (fun _ => rfl) (fun _ => rfl) (fun _ => rfl) (fun _ => rfl) (fun f hf => absurd (mem_allFlags f) hf)
    (fun _ _ => rfl) rfl

theorem State.setFlag_frame (s : State) (f : Flag) (b : Bool) : Frame [] [f] [] s (s.setFlag f b) :=
  Frame.of (fun _ => rfl) (fun _ => rfl) (fun _ => rfl) (fun _ => rfl)
    (fun g hg => by rw [State.setFlag_flag, if_neg (by simpa using hg)]) (fun _ _ => rfl) rfl

theorem State.write_frame (s : State) (addr : Word) (v : Byte) : Frame [] [] [addr] s (s.write addr v) :=
  Frame.of (fun _ => rfl) (fun _ => rfl) (fun _ => rfl) (fun _ => rfl) (fun _ _ => rfl)
    (fun b hb => by rw [State.write_read, if_neg (by simpa using hb)]) rfl

theorem State.setZN_frame (s : State) (v : Byte) : Frame [] [.z, .n] [] s (s.setZN v) :=
  (s.setFlag_frame .z _).trans (State.setFlag_frame _ .n _)

theorem State.loadA_frame (s : State) (v : Byte) : Frame [.a] [.z, .n] [] s (s.loadA v) :=
  (s.setA_frame v).trans (State.setZN_frame _ v)

theorem State.loadX_frame (s : State) (v : Byte) : Frame [.x] [.z, .n] [] s (s.loadX v) :=
  (s.setX_frame v).trans (State.setZN_frame _ v)

theorem State.loadY_frame (s : State) (v : Byte) : Frame [.y] [.z, .n] [] s (s.loadY v) :=
  (s.setY_frame v).trans (State.setZN_frame _ v)

theorem State.addToA_frame (s : State) (m : Byte) : Frame [.a] [.c, .v, .z, .n] [] s (s.addToA m) :=
  (((s.setA_frame _).trans (State.setFlag_frame _ .c _)).trans (State.setFlag_frame _ .v _)).trans
    (State.setZN_frame _ _)

theorem State.storeZN_frame (s : State) (addr : Word) (r : Byte) : Frame [] [.z, .n] [addr] s (s.storeZN addr r) :=
  (s.write_frame addr r).trans (State.setZN_frame _ r)

theorem State.putShifted_acc_frame (s : State) (r : Byte) (c : Bool) :
    Frame [.a] [.c, .z, .n] [] s (s.putShifted .acc r c) :=
  ((s.setFlag_frame .c c).trans (State.setA_frame _ r)).trans (State.setZN_frame _ r)

theorem State.putShifted_mem_frame (s : State) (addr : Word) (r : Byte) (c : Bool) :
    Frame [] [.c, .z, .n] [addr] s (s.putShifted (.mem addr) r c) :=
  ((s.setFlag_frame .c c).trans (State.write_frame _ addr r)).trans (State.setZN_frame _ r)

/-- The three flag writes of BIT (41_logic.md R73). -/
theorem State.bitTest_frame (s : State) (z n v : Bool) :
    Frame [] [.z, .n, .v] [] s (((s.setFlag .z z).setFlag .n n).setFlag .v v) :=
  ((s.setFlag_frame .z z).trans (State.setFlag_frame _ .n n)).trans (State.setFlag_frame _ .v v)

theorem State.branch_frame (s : State) (cond : Bool) (off : Byte) : Frame [] [] [] s (s.branch cond off) := by
  rw [State.branch_eq]
  exact s.setPC_frame _

theorem State.push_frame (s : State) (v : Byte) : Frame [.sp] [] [stackSlot s.sp] s (s.push v) :=
  (s.write_frame (stackSlot s.sp) v).trans (State.setSP_frame _ (s.sp - 1))

theorem sp_twice_subset : [Reg.sp] ++ [.sp] ⊆ [.sp] := by simp

theorem State.push16_frame (s : State) (v : Word) :
    Frame [.sp] [] [stackSlot s.sp, stackSlot (s.sp - 1)] s (s.push16 v) :=
  ((s.push_frame (hiByte v)).trans (State.push_frame _ (loByte v))).mono sp_twice_subset (List.Subset.refl _)
    (List.Subset.refl _)

theorem State.call_frame (p : Params) (target : Word) (s : State) :
    Frame [.sp] [] [stackSlot s.sp, stackSlot (s.sp - 1)] s (s.call p target) :=
  (s.push16_frame _).trans (State.setPC_frame _ target)

theorem State.afterPull_frame (s : State) : Frame [.sp] [] [] s s.afterPull := s.setSP_frame (s.sp + 1)

theorem State.afterPull16_frame (s : State) : Frame [.sp] [] [] s s.afterPull16 :=
  (s.afterPull_frame.trans (State.afterPull_frame _)).mono sp_twice_subset (List.Subset.refl _) (List.Subset.refl _)

theorem State.returnFromCall_frame (p : Params) (s : State) : Frame [.sp] [] [] s (s.returnFromCall p) :=
  s.afterPull16_frame.trans (State.setPC_frame _ _)

theorem State.returnFromInterrupt_frame (s : State) : Frame [.sp] allFlags [] s s.returnFromInterrupt :=
  (((s.afterPull_frame.trans (State.setP_frame _ s.pulled)).trans (State.afterPull16_frame _)).trans
    (State.setPC_frame _ _)).mono sp_twice_subset (List.Subset.refl _) (List.Subset.refl _)

theorem State.maskInterrupts_frame (p : Params) (s : State) : Frame [] [.i] [] s (s.maskInterrupts p) := by
  unfold State.maskInterrupts
  split
  · exact s.setFlag_frame .i true
  · exact (Frame.refl s).mono (List.Subset.refl _) (List.nil_subset _) (List.Subset.refl _)

theorem pred_pred (b : Byte) : b - 1 - 1 = b - 2 := by bv_omega

theorem State.enter_frame (p : Params) (vector : Word) (status : Byte) (s : State) :
    Frame [.sp] [.i] [stackSlot s.sp, stackSlot (s.sp - 1), stackSlot (s.sp - 2)] s (s.enter p vector status) := by
  rw [← pred_pred]
  exact ((((s.push16_frame s.pc).trans (State.push_frame _ status)).trans (State.maskInterrupts_frame p _)).trans
    (State.setPC_frame _ _)).mono sp_twice_subset (List.Subset.refl _) (List.Subset.refl _)

theorem State.break_frame (p : Params) (s : State) :
    Frame [.sp] [.i] [stackSlot s.sp, stackSlot (s.sp - 1), stackSlot (s.sp - 2)] s (s.break p) := by
  rw [State.break_eq]
  exact (s.setPC_frame _).trans (State.enter_frame p _ _ (s.setPC (breakReturn p s.pc)))

theorem zn_subset : [Flag.z, .n] ⊆ [.n, .z] := by decide

theorem znv_subset : [Flag.z, .n, .v] ⊆ [.n, .v, .z] := by decide

theorem czn_subset : [Flag.c, .z, .n] ⊆ [.n, .z, .c] := by decide

theorem cvzn_subset : [Flag.c, .v, .z, .n] ⊆ [.n, .v, .z, .c] := by decide

/-- What each instruction may write, under any parameters: the frame of the shared operation that is its meaning. -/
theorem execWith_frame {p : Params} {i : Instr} {s t : State} (h : execWith p i s = .next t) :
    Frame i.regsWritten i.flagsWritten (i.storedTo s) s t := by
  have same {α : Type} (l : List α) : l ⊆ l := List.Subset.refl l
  cases i with
  | adc o | sbc o => cases h; exact (s.addToA_frame _).mono (same _) cvzn_subset (same _)
  | and o | ora o | eor o | lda o | txa | tya =>
    cases h; exact (s.loadA_frame _).mono (same _) zn_subset (same _)
  | ldx o | inx | dex | tax | tsx => cases h; exact (s.loadX_frame _).mono (same _) zn_subset (same _)
  | ldy o | iny | dey | tay => cases h; exact (s.loadY_frame _).mono (same _) zn_subset (same _)
  | bit m => cases h; exact (s.bitTest_frame _ _ _).mono (same _) znv_subset (same _)
  | asl o | lsr o | rol o | ror o => 
    cases h
    cases o with
    | acc => exact (s.putShifted_acc_frame _ _).mono (same _) czn_subset (same _)
    | mem m => exact (s.putShifted_mem_frame _ _ _).mono (same _) czn_subset (same _)
  | cmp o | cpx o | cpy o => cases h; exact (s.compare_frame _ _).mono (same _) czn_subset (same _)
  | inc m | dec m => cases h; exact (s.storeZN_frame _ _).mono (same _) zn_subset (same _)
  | bcc off | bcs off | beq off | bne off | bmi off | bpl off | bvc off | bvs off => cases h; exact s.branch_frame _ off
  | jmp o => cases h; exact s.setPC_frame _
  | jsr target => cases h; exact s.call_frame p target
  | rts => cases h; exact s.returnFromCall_frame p
  | rti => cases h; exact s.returnFromInterrupt_frame
  | pha | php => cases h; exact s.push_frame _
  | pla =>
    cases h
    exact (s.afterPull_frame.trans (State.loadA_frame _ _)).mono (by decide) zn_subset (same _)
  | plp => cases h; exact s.afterPull_frame.trans (State.setP_frame _ _)
  | sec | clc | sei | cli | sed | cld | clv => cases h; exact s.setFlag_frame _ _
  | sta m | stx m | sty m => cases h; exact s.write_frame _ _
  | txs => cases h; exact s.setSP_frame _
  | brk => cases h; exact s.break_frame p
  | nop | ill op => cases h; exact Frame.refl s

/-- What each instruction may write, at the model's parameters. -/
theorem exec_frame {i : Instr} {s t : State} (h : exec i s = .next t) :
    Frame i.regsWritten i.flagsWritten (i.storedTo s) s t :=
  execWith_frame ((execWith_params i s).trans h)

/-- Settles O21: the registers of `exec_frame`. -/
theorem registersWrittenOnlyByTheirWriters : Obligations.RegistersWrittenOnlyByTheirWriters :=
  fun _ _ _ r h => (exec_frame h).regs r

/-- Settles O22: the flags of `exec_frame`. -/
theorem flagsWrittenOnlyAsInTable : Obligations.FlagsWrittenOnlyAsInTable :=
  fun _ _ _ f h => (exec_frame h).flags f

/-- Settles O23: the memory of `exec_frame`. -/
theorem memoryChangesOnlyAtStoreTargets : Obligations.MemoryChangesOnlyAtStoreTargets :=
  fun _ _ _ addr h => (exec_frame h).mem addr

/-- Settles O10: no instruction writes `opcode` after the fetch did, and the fetch overwrites it without reading it. -/
theorem stepRecordsOpcode : Obligations.StepRecordsOpcode := by
  refine ⟨fun s t h => ?_, fun s v => rfl⟩
  rw [step_eq] at h
  exact (exec_frame h).opcode

/-- An instruction outside the list of PC's writers leaves PC where the fetch put it (10_state.md R24). -/
theorem exec_pc {i : Instr} {s t : State} (hi : i.writesPC = false) (h : exec i s = .next t) : t.pc = s.pc := by
  cases i with
  | asl o | lsr o | rol o | ror o => cases h; cases o <;> rfl
  | bcc | bcs | beq | bne | bmi | bpl | bvc | bvs | jmp | jsr | rts | rti | brk => cases hi
  | _ => cases h; rfl

/-- Settles O11: the fetch adds the length, and `exec_pc`. -/
theorem stepAdvancesPcByLength : Obligations.StepAdvancesPcByLength := by
  intro s t h hi
  rw [step_eq] at h
  rw [exec_pc hi h, State.consume_eq]
  simp

/-- Settles O13: the byte read at PC is the byte STA wrote there. -/
theorem storeSeenByNextFetch : Obligations.StoreSeenByNextFetch := by
  intro m s t h hpc
  have fetched : t.fetchOpcode = s.a := by
    rw [State.fetchOpcode, hpc]
    cases h
    rw [State.write_read, if_pos rfl]
  exact ⟨_, _, by rw [step_eq, State.fetchInstr, fetched]⟩

/-- Settles O52: both have length 1 and the identity as their meaning. -/
theorem nopAndIllDoNothing : Obligations.NopAndIllDoNothing := by
  refine ⟨exec_nop, exec_ill, fun s op h => ?_⟩
  rw [step_eq, State.consume_eq]
  rcases h with h | h <;> rw [h] <;> rfl

end Sys2Proof.Machine

namespace Sys2Proof.Machine

/-! ### The decimal flag -/

theorem putFlag_putFlag (p : Byte) (f : Flag) (b c : Bool) : putFlag (putFlag p f b) f c = putFlag p f c := by
  apply status_ext
  intro g
  by_cases h : g = f <;> simp [h]

theorem putFlag_comm (p : Byte) {f g : Flag} (h : f ≠ g) (b c : Bool) :
    putFlag (putFlag p f b) g c = putFlag (putFlag p g c) f b := by
  apply status_ext
  intro k
  by_cases hf : k = f
  · simp [hf, h]
  · simp [hf]

theorem State.setFlag_setFlag (s : State) (f : Flag) (b c : Bool) : (s.setFlag f b).setFlag f c = s.setFlag f c :=
  congrArg s.setP (putFlag_putFlag s.p f b c)

section

/-! The shared operations commute with replacing D, and nothing they read changes with it (40_arithmetic.md R63). -/

variable (s : State) (b : Bool)

theorem State.setFlag_d_setFlag {f : Flag} (h : .d ≠ f) (c : Bool) :
    (s.setFlag .d b).setFlag f c = (s.setFlag f c).setFlag .d b :=
  congrArg s.setP (putFlag_comm s.p h b c)

theorem State.setFlag_d_flag {f : Flag} (h : f ≠ .d) : (s.setFlag .d b).flag f = s.flag f := by
  rw [State.setFlag_flag, if_neg h]

theorem State.setFlag_d_setZN (v : Byte) : (s.setFlag .d b).setZN v = (s.setZN v).setFlag .d b := by
  simp (disch := decide) only [State.setZN, State.setFlag_d_setFlag]

theorem State.setFlag_d_loadA (v : Byte) : (s.setFlag .d b).loadA v = (s.loadA v).setFlag .d b :=
  (s.setA v).setFlag_d_setZN b v

theorem State.setFlag_d_loadX (v : Byte) : (s.setFlag .d b).loadX v = (s.loadX v).setFlag .d b :=
  (s.setX v).setFlag_d_setZN b v

theorem State.setFlag_d_loadY (v : Byte) : (s.setFlag .d b).loadY v = (s.loadY v).setFlag .d b :=
  (s.setY v).setFlag_d_setZN b v

theorem State.setFlag_d_storeZN (addr : Word) (v : Byte) :
    (s.setFlag .d b).storeZN addr v = (s.storeZN addr v).setFlag .d b :=
  (s.write addr v).setFlag_d_setZN b v

theorem State.setFlag_d_compare (r m : Byte) : (s.setFlag .d b).compare r m = (s.compare r m).setFlag .d b := by
  simp (disch := decide) only [State.compare, State.setFlag_d_setFlag]

theorem State.setFlag_d_bitTest (z n v : Bool) :
    (((s.setFlag .d b).setFlag .z z).setFlag .n n).setFlag .v v =
      (((s.setFlag .z z).setFlag .n n).setFlag .v v).setFlag .d b := by
  simp (disch := decide) only [State.setFlag_d_setFlag]

theorem State.setFlag_d_setLoc (loc : Loc) (v : Byte) :
    (s.setFlag .d b).setLoc loc v = (s.setLoc loc v).setFlag .d b := by
  cases loc <;> rfl

theorem State.setFlag_d_addToA (m : Byte) : (s.setFlag .d b).addToA m = (s.addToA m).setFlag .d b := by
  have setA (v : Byte) : (s.setFlag .d b).setA v = (s.setA v).setFlag .d b := s.setFlag_d_setLoc b .acc v
  simp (disch := decide) only [State.addToA, State.setFlag_d_flag, State.setFlag_a, setA, State.setFlag_d_setFlag,
    State.setFlag_d_setZN]

theorem State.setFlag_d_putShifted (loc : Loc) (r : Byte) (c : Bool) :
    (s.setFlag .d b).putShifted loc r c = (s.putShifted loc r c).setFlag .d b := by
  simp (disch := decide) only [State.putShifted, State.setFlag_d_setFlag, State.setFlag_d_setLoc, State.setFlag_d_setZN]

theorem State.setFlag_d_branch (cond : Bool) (off : Byte) :
    (s.setFlag .d b).branch cond off = (s.branch cond off).setFlag .d b := by
  rw [State.branch_eq, State.branch_eq]
  rfl

theorem State.setFlag_rmwLoc (f : Flag) (o : RmwOperand) : (s.setFlag f b).rmwLoc o = s.rmwLoc o := by
  cases o with
  | acc => rfl
  | mem m => exact congrArg Loc.mem (State.effAddr_congr rfl rfl rfl m)

theorem State.setFlag_getLoc (f : Flag) (loc : Loc) : (s.setFlag f b).getLoc loc = s.getLoc loc := by
  cases loc <;> rfl

end

/-- Replacing D before an instruction is replacing D after it, or changes nothing at all for one that overwrites D: the
shared operations neither read D nor, but for those, write it (R63, the spec's own decision D9). -/
theorem exec_setFlag_d {i : Instr} {s t : State} (b : Bool) (hphp : i ≠ .php) (hbrk : i ≠ .brk)
    (h : exec i s = .next t) :
    exec i (s.setFlag .d b) = .next (t.setFlag .d b) ∨ exec i (s.setFlag .d b) = .next t := by
  cases i with
  | php => exact absurd rfl hphp
  | brk => exact absurd rfl hbrk
  | sed | cld =>
    cases h
    exact .inr (congrArg Host.Outcome.next (s.setFlag_setFlag .d b _))
  | plp | rti => cases h; exact .inr rfl
  | adc o | sbc o =>
    cases h
    exact .inl (congrArg Host.Outcome.next (s.setFlag_d_addToA b _))
  | and o | ora o | eor o | lda o | txa | tya =>
    cases h
    exact .inl (congrArg Host.Outcome.next (s.setFlag_d_loadA b _))
  | pla =>
    cases h
    exact .inl (congrArg Host.Outcome.next (s.afterPull.setFlag_d_loadA b s.pulled))
  | ldx o | inx | dex | tax | tsx =>
    cases h
    exact .inl (congrArg Host.Outcome.next (s.setFlag_d_loadX b _))
  | ldy o | iny | dey | tay =>
    cases h
    exact .inl (congrArg Host.Outcome.next (s.setFlag_d_loadY b _))
  | bit m =>
    cases h
    exact .inl (congrArg Host.Outcome.next (s.setFlag_d_bitTest b _ _ _))
  | cmp o | cpx o | cpy o =>
    cases h
    exact .inl (congrArg Host.Outcome.next (s.setFlag_d_compare b _ _))
  | inc m | dec m =>
    cases h
    exact .inl (congrArg Host.Outcome.next (s.setFlag_d_storeZN b _ _))
  | sec | clc | sei | cli | clv =>
    cases h
    exact .inl (congrArg Host.Outcome.next (s.setFlag_d_setFlag b (by decide) _))
  | asl o | lsr o | rol o | ror o =>
    cases h
    simp (disch := decide) only [exec_asl, exec_lsr, exec_rol, exec_ror, State.setFlag_rmwLoc, State.setFlag_getLoc,
      State.setFlag_d_flag, State.setFlag_d_putShifted, true_or]
  | bcc off | bcs off | beq off | bne off | bmi off | bpl off | bvc off | bvs off =>
    cases h
    simp (disch := decide) only [exec_bcc, exec_bcs, exec_beq, exec_bne, exec_bmi, exec_bpl, exec_bvc, exec_bvs,
      State.setFlag_d_flag, State.setFlag_d_branch, true_or]
  | _ => cases h; exact .inl rfl

/-- Settles O24: a state with D replaced agrees with the state in everything but D. -/
theorem decimalFlagInfluencesNothing : Obligations.DecimalFlagInfluencesNothing := by
  intro i s t b hphp hbrk h
  rcases exec_setFlag_d b hphp hbrk h with h' | h'
  · exact ⟨_, h', fun r => by cases r <;> rfl, fun f hf => t.setFlag_d_flag b hf, rfl, rfl, rfl⟩
  · exact ⟨t, h', fun _ => rfl, fun _ _ => rfl, rfl, rfl, rfl⟩

end Sys2Proof.Machine

namespace Sys2Proof.Machine

/-! ### Arithmetic -/

/-- Bit 7 of a byte, in the naturals. -/
theorem getLsbD_seven (v : Byte) : v.getLsbD 7 = decide (128 ≤ v.toNat) :=
  BitVec.msb_eq_decide v

/-- The 9-bit sum does not wrap (40_arithmetic.md R60). -/
theorem toNat_addSum (a m : Byte) (c : Bool) : (addSum a m c).toNat = a.toNat + m.toNat + c.toNat := by
  have ha := a.isLt
  have hm := m.isLt
  have hc := c.toNat_lt
  simp only [addSum, BitVec.toNat_add, BitVec.toNat_setWidth, BitVec.toNat_ofBool]
  omega

theorem toNat_addResult (a m : Byte) (c : Bool) : (addResult a m c).toNat = (a.toNat + m.toNat + c.toNat) % 256 := by
  rw [addResult, BitVec.toNat_setWidth, toNat_addSum]

theorem addCarry_eq_decide (a m : Byte) (c : Bool) : addCarry a m c = decide (256 ≤ a.toNat + m.toNat + c.toNat) := by
  rw [addCarry, BitVec.msb_eq_decide, toNat_addSum]

theorem addOverflow_eq_bit (a m : Byte) (c : Bool) :
    addOverflow a m c = ((a ^^^ addResult a m c) &&& (m ^^^ addResult a m c)).getLsbD 7 := rfl

/-- V by signs: the operands share a sign bit and the result's differs (R60). -/
theorem addOverflow_eq_signs (a m : Byte) (c : Bool) :
    addOverflow a m c =
      decide (a.getLsbD 7 = m.getLsbD 7 ∧ (addResult a m c).getLsbD 7 ≠ a.getLsbD 7) := by
  rw [addOverflow_eq_bit, BitVec.getLsbD_and, BitVec.getLsbD_xor, BitVec.getLsbD_xor]
  cases a.getLsbD 7 <;> cases m.getLsbD 7 <;> cases (addResult a m c).getLsbD 7 <;> rfl

/-- V by range: the signed sum does not fit in a byte (R60). -/
theorem addOverflow_eq_range (a m : Byte) (c : Bool) :
    addOverflow a m c =
      decide (a.toInt + m.toInt + (c.toNat : Int) < -128 ∨ 127 < a.toInt + m.toInt + (c.toNat : Int)) := by
  have ha := a.isLt
  have hm := m.isLt
  have hc := c.toNat_lt
  rw [addOverflow_eq_signs, decide_eq_decide, getLsbD_seven, getLsbD_seven, getLsbD_seven, toNat_addResult,
    BitVec.toInt_eq_toNat_cond, BitVec.toInt_eq_toNat_cond, ne_eq, decide_eq_decide, decide_eq_decide]
  split <;> split <;> omega

@[simp] theorem State.addToA_a (s : State) (m : Byte) : (s.addToA m).a = addResult s.a m (s.flag .c) := rfl

theorem State.addToA_c (s : State) (m : Byte) : (s.addToA m).flag .c = addCarry s.a m (s.flag .c) := by
  simp [State.addToA]

theorem State.addToA_v (s : State) (m : Byte) : (s.addToA m).flag .v = addOverflow s.a m (s.flag .c) := by
  simp [State.addToA]

theorem State.addToA_ZNOf (s : State) (m : Byte) : (s.addToA m).ZNOf (s.addToA m).a := State.setZN_ZNOf _ _

/-- Settles O25: the three forms of V are the three lemmas about `addOverflow`. -/
theorem adcAddsWithCarry : Obligations.AdcAddsWithCarry := by
  intro o s m sum signed
  refine ⟨_, exec_adc o s, toNat_addResult _ _ _, ?_, ?_, ?_, ?_, s.addToA_ZNOf m, rfl, s.addToA_frame m⟩
  · exact (s.addToA_c m).trans (addCarry_eq_decide _ _ _)
  · exact s.addToA_v m
  · exact (s.addToA_v m).trans (addOverflow_eq_signs _ _ _)
  · exact (s.addToA_v m).trans (addOverflow_eq_range _ _ _)

/-- Adding the complement subtracts with borrow: the byte (40_arithmetic.md R62). -/
theorem toNat_addResult_not (a m : Byte) (c : Bool) :
    ((addResult a (~~~m) c).toNat : Int) = ((a.toNat : Int) - (m.toNat : Int) - (1 - (c.toNat : Int))) % 256 := by
  have hm := m.isLt
  rw [toNat_addResult, BitVec.toNat_not]
  omega

/-- Adding the complement subtracts with borrow: C set is no borrow (R62). -/
theorem addCarry_not (a m : Byte) (c : Bool) :
    addCarry a (~~~m) c = decide (0 ≤ (a.toNat : Int) - (m.toNat : Int) - (1 - (c.toNat : Int))) := by
  have hm := m.isLt
  rw [addCarry_eq_decide, BitVec.toNat_not, decide_eq_decide]
  omega

/-- Adding the complement subtracts with borrow: V by signs (R62). -/
theorem addOverflow_not (a m : Byte) (c : Bool) :
    addOverflow a (~~~m) c =
      decide (a.getLsbD 7 ≠ m.getLsbD 7 ∧ (addResult a (~~~m) c).getLsbD 7 ≠ a.getLsbD 7) := by
  have complement : (~~~m).getLsbD 7 = !m.getLsbD 7 := (BitVec.getLsbD_not (i := 7)).trans (Bool.true_and _)
  rw [addOverflow_eq_signs, complement, decide_eq_decide, Bool.eq_not]

/-- Settles O26: SBC adds the operand's complement. -/
theorem sbcSubtractsWithBorrow : Obligations.SbcSubtractsWithBorrow := by
  intro o s m diff
  refine ⟨_, exec_sbc o s, toNat_addResult_not _ _ _, ?_, ?_, s.addToA_ZNOf (~~~m), rfl, s.addToA_frame (~~~m)⟩
  · exact (s.addToA_c (~~~m)).trans (addCarry_not _ _ _)
  · exact (s.addToA_v (~~~m)).trans (addOverflow_not _ _ _)

/-! ### Loads, logic, increments of registers, transfers -/

/-- A register loaded with a byte: it holds the byte, Z and N tell of it, nothing else changes (10_state.md R28). -/
def Loaded (r : Reg) (v : Byte) (s t : State) : Prop :=
  t.reg r = v ∧ t.ZNOf v ∧ t.pc = s.pc ∧ Frame [r] [.z, .n] [] s t

theorem State.loadA_loaded (s : State) (v : Byte) : Loaded .a v s (s.loadA v) :=
  ⟨rfl, State.setZN_ZNOf _ v, rfl, s.loadA_frame v⟩

theorem State.loadX_loaded (s : State) (v : Byte) : Loaded .x v s (s.loadX v) :=
  ⟨rfl, State.setZN_ZNOf _ v, rfl, s.loadX_frame v⟩

theorem State.loadY_loaded (s : State) (v : Byte) : Loaded .y v s (s.loadY v) :=
  ⟨rfl, State.setZN_ZNOf _ v, rfl, s.loadY_frame v⟩

/-- Settles O47: LDA, LDX and LDY are loads of the operand byte. -/
theorem loadsReadOperand : Obligations.LoadsReadOperand :=
  ⟨fun o s => ⟨_, exec_lda o s, s.loadA_loaded _⟩, fun o s => ⟨_, exec_ldx o s, s.loadX_loaded _⟩,
    fun o s => ⟨_, exec_ldy o s, s.loadY_loaded _⟩⟩

/-- Settles O50: five transfers are loads of a register's byte, TXS writes SP only. -/
theorem transfersCopyRegister : Obligations.TransfersCopyRegister :=
  ⟨fun s => ⟨_, exec_tax s, s.loadX_loaded s.a⟩, fun s => ⟨_, exec_tay s, s.loadY_loaded s.a⟩,
    fun s => ⟨_, exec_txa s, s.loadA_loaded s.x⟩, fun s => ⟨_, exec_tya s, s.loadA_loaded s.y⟩,
    fun s => ⟨_, exec_tsx s, s.loadX_loaded s.sp⟩, fun s => ⟨_, exec_txs s, rfl, rfl, s.setSP_frame s.x⟩⟩

theorem toNat_add_one (v : Byte) : (v + 1).toNat = (v.toNat + 1) % 256 := BitVec.toNat_add v 1

theorem toNat_sub_one (v : Byte) : (v - 1).toNat = (v.toNat + 255) % 256 := by
  rw [BitVec.toNat_sub]
  congr 1
  exact Nat.add_comm 255 v.toNat

/-- An instruction that loads a register with a byte `k` above it has the shape of INX, INY, DEX and DEY. -/
theorem addsToReg_of_loaded {i : Instr} {r : Reg} {k : Nat} {f : Byte → Byte}
    (hf : ∀ v, (f v).toNat = (v.toNat + k) % 256)
    (h : ∀ s, ∃ t, exec i s = .next t ∧ Loaded r (f (s.reg r)) s t) : AddsToReg i r k := by
  intro s
  obtain ⟨t, ht, hr, hzn, hpc, hframe⟩ := h s
  rw [← hr] at hzn
  exact ⟨t, ht, hr ▸ hf _, hzn, hpc, hframe⟩

/-- Settles O34: the four are loads of a register's byte changed by one. -/
theorem incDecIndexRegisters : Obligations.IncDecIndexRegisters :=
  ⟨addsToReg_of_loaded toNat_add_one fun s => ⟨_, exec_inx s, s.loadX_loaded (s.x + 1)⟩,
    addsToReg_of_loaded toNat_add_one fun s => ⟨_, exec_iny s, s.loadY_loaded (s.y + 1)⟩,
    addsToReg_of_loaded toNat_sub_one fun s => ⟨_, exec_dex s, s.loadX_loaded (s.x - 1)⟩,
    addsToReg_of_loaded toNat_sub_one fun s => ⟨_, exec_dey s, s.loadY_loaded (s.y - 1)⟩⟩

/-- An instruction that loads A with a function of A and the operand that acts bit by bit has the shape of AND, ORA and
EOR. -/
theorem bitwiseIntoA_of_exec {i : ReadOperand → Instr} {f : Bool → Bool → Bool} {g : Byte → Byte → Byte}
    (h : ∀ o s, exec (i o) s = .next (s.loadA (g s.a (s.operand o))))
    (hg : ∀ a m k, k < 8 → (g a m).getLsbD k = f (a.getLsbD k) (m.getLsbD k)) : BitwiseIntoA i f := by
  intro o s
  obtain ⟨-, hzn, hpc, hframe⟩ := s.loadA_loaded (g s.a (s.operand o))
  exact ⟨_, h o s, hg _ _, hzn, hpc, hframe⟩

/-- Settles O27: the bits of the three operations on bytes are the library's. -/
theorem logicOpsActBitByBit : Obligations.LogicOpsActBitByBit :=
  ⟨bitwiseIntoA_of_exec exec_and fun _ _ _ _ => BitVec.getLsbD_and,
    bitwiseIntoA_of_exec exec_ora fun _ _ _ _ => BitVec.getLsbD_or,
    bitwiseIntoA_of_exec exec_eor fun _ _ _ _ => BitVec.getLsbD_xor⟩

/-- A conjunction is zero exactly when no bit is set in both bytes. -/
theorem and_eq_zero_iff (a m : Byte) :
    (a &&& m == 0x00) = true ↔ ∀ k, k < 8 → ¬(a.getLsbD k = true ∧ m.getLsbD k = true) := by
  rw [beq_iff_eq]
  constructor
  · rintro h k - ⟨ha, hm⟩
    have := congrArg (·.getLsbD k) h
    simp [ha, hm] at this
  · intro h
    apply BitVec.eq_of_getLsbD_eq
    intro k hk
    simpa using h k hk

/-- Settles O28: each flag is read after the three flag writes of BIT. -/
theorem bitTestsMemory : Obligations.BitTestsMemory := by
  intro m s v
  refine ⟨_, exec_bit m s, ?_, ?_, ?_, rfl, s.bitTest_frame _ _ _⟩
  · rw [← and_eq_zero_iff]
    simp [v]
  · simp [v]
  · simp [v]

end Sys2Proof.Machine

namespace Sys2Proof.Machine

/-! ### Shifts and rotates -/

theorem leftCarry_eq_decide (v : Byte) : leftCarry v = decide (128 ≤ v.toNat) := getLsbD_seven v

theorem rightCarry_eq_decide (v : Byte) : rightCarry v = decide (v.toNat % 2 = 1) := by
  simp [rightCarry, BitVec.getLsbD, Nat.testBit_zero]

theorem toNat_shiftLeft_one (v : Byte) : (v <<< 1).toNat = 2 * v.toNat % 256 := by
  rw [BitVec.toNat_shiftLeft, Nat.shiftLeft_eq]
  omega

theorem toNat_shiftRight_one (v : Byte) : (v >>> 1).toNat = v.toNat / 2 := by
  rw [BitVec.toNat_ushiftRight, Nat.shiftRight_eq_div_pow]

theorem toNat_carryBit (c : Bool) : ((BitVec.ofBool c).setWidth 8).toNat = c.toNat := by
  cases c <;> rfl

/-- ROL's result in the naturals: the carry goes to the bit the shift left empty (42_shifts.md R82). -/
theorem toNat_rolResult (v : Byte) (c : Bool) : (rolResult v c).toNat = 2 * v.toNat % 256 + c.toNat := by
  have hc := c.toNat_lt
  have shifted : 2 * v.toNat % 256 = 2 ^ 1 * (v.toNat % 128) := by omega
  rw [rolResult, BitVec.toNat_or, toNat_shiftLeft_one, toNat_carryBit, shifted, Nat.two_pow_add_eq_or_of_lt hc]

/-- ROR's result in the naturals: the carry goes to the bit the shift left empty (42_shifts.md R83). -/
theorem toNat_rorResult (v : Byte) (c : Bool) : (rorResult v c).toNat = 128 * c.toNat + v.toNat / 2 := by
  have hv : v.toNat / 2 < 2 ^ 7 := by
    have := v.isLt
    omega
  have entering : ((BitVec.ofBool c).setWidth 8 <<< 7).toNat = 2 ^ 7 * c.toNat := by cases c <;> rfl
  rw [rorResult, BitVec.toNat_or, toNat_shiftRight_one, entering, ← Nat.two_pow_add_eq_or_of_lt hv]

theorem State.putShifted_c (s : State) (loc : Loc) (r : Byte) (c : Bool) : (s.putShifted loc r c).flag .c = c := by
  cases loc <;> simp [State.putShifted, State.setLoc]

theorem State.putShifted_getLoc (s : State) (loc : Loc) (r : Byte) (c : Bool) :
    (s.putShifted loc r c).getLoc loc = r := by
  cases loc <;> simp [State.putShifted, State.setLoc, State.getLoc]

theorem State.putShifted_ZNOf (s : State) (loc : Loc) (r : Byte) (c : Bool) :
    (s.putShifted loc r c).ZNOf ((s.putShifted loc r c).getLoc loc) := by
  rw [State.putShifted_getLoc]
  exact State.setZN_ZNOf _ r

/-- An instruction that ends as the four shifts do, with a result and a carry known in the naturals, has their shape. -/
theorem shiftsBy_of_exec {i : RmwOperand → Instr} {r : Nat → Nat → Nat} {c : Nat → Bool} {res : Byte → Bool → Byte}
    {out : Byte → Bool}
    (h : ∀ o s, exec (i o) s =
      .next (s.putShifted (s.rmwLoc o) (res (s.getLoc (s.rmwLoc o)) (s.flag .c)) (out (s.getLoc (s.rmwLoc o)))))
    (hres : ∀ v b, (res v b).toNat = r v.toNat b.toNat) (hout : ∀ v, out v = c v.toNat) : ShiftsBy i r c := by
  refine fun s => ⟨⟨_, h .acc s, hres _ _, ?_, s.putShifted_ZNOf .acc _ _, rfl, s.putShifted_acc_frame _ _⟩,
    fun m => ⟨_, h (.mem m) s, ?_, ?_, s.putShifted_ZNOf (.mem (s.effAddr m)) _ _, rfl, s.putShifted_mem_frame _ _ _⟩⟩
  · exact (s.putShifted_c _ _ _).trans (hout _)
  · exact (congrArg BitVec.toNat (s.putShifted_getLoc (.mem (s.effAddr m)) _ _)).trans (hres _ _)
  · exact (s.putShifted_c _ _ _).trans (hout _)

/-- Settles O29: ASL and LSR use no carry-in. -/
theorem shiftsMoveOneBit : Obligations.ShiftsMoveOneBit :=
  ⟨shiftsBy_of_exec (res := fun v _ => aslResult v) exec_asl (fun v _ => toNat_shiftLeft_one v) leftCarry_eq_decide,
    shiftsBy_of_exec (res := fun v _ => lsrResult v) exec_lsr (fun v _ => toNat_shiftRight_one v) rightCarry_eq_decide⟩

/-- Settles O30: ROL and ROR use the old carry. -/
theorem rotatesMoveThroughCarry : Obligations.RotatesMoveThroughCarry :=
  ⟨shiftsBy_of_exec exec_rol toNat_rolResult leftCarry_eq_decide,
    shiftsBy_of_exec exec_ror toNat_rorResult rightCarry_eq_decide⟩

theorem getLsbD_rolResult_zero (v : Byte) (c : Bool) : (rolResult v c).getLsbD 0 = c := by
  cases c <;> simp [rolResult]

theorem getLsbD_rolResult_succ (v : Byte) (c : Bool) {k : Nat} (hk : k + 1 < 8) :
    (rolResult v c).getLsbD (k + 1) = v.getLsbD k := by
  have hk' : k < 8 := by omega
  cases c <;> simp [rolResult, hk, hk']

/-- The nine bits ROL A turns: A's bits 0 to 7, then C (42_shifts.md R82). -/
def State.ringBit (s : State) (k : Nat) : Bool := if k = 8 then s.flag .c else s.a.getLsbD k

/-- The state ROL A leaves. -/
def State.rolA (s : State) : State := s.putShifted .acc (rolResult s.a (s.flag .c)) (leftCarry s.a)

theorem exec_rol_acc (s : State) : exec (.rol .acc) s = .next s.rolA := rfl

theorem State.rolA_a (s : State) : s.rolA.a = rolResult s.a (s.flag .c) := s.putShifted_getLoc .acc _ _

theorem State.rolA_c (s : State) : s.rolA.flag .c = leftCarry s.a := s.putShifted_c .acc _ _

/-- ROL A moves each of the nine bits up by one place, the last to the first. -/
theorem State.ringBit_rolA (s : State) {k : Nat} (hk : k < 9) : s.rolA.ringBit k = s.ringBit ((k + 8) % 9) := by
  rw [State.ringBit, State.ringBit, State.rolA_a, State.rolA_c]
  by_cases h8 : k = 8
  · subst h8
    rfl
  · cases k with
    | zero => exact getLsbD_rolResult_zero _ _
    | succ k =>
      have source : (k + 1 + 8) % 9 = k := by omega
      rw [if_neg h8, source, if_neg (by omega), getLsbD_rolResult_succ _ _ (by omega)]

/-- The nine bits determine A. -/
theorem State.a_eq_of_ringBit {s t : State} (h : ∀ k, k < 9 → t.ringBit k = s.ringBit k) : t.a = s.a := by
  apply BitVec.eq_of_getLsbD_eq
  intro k hk
  have bit := h k (by omega)
  rwa [State.ringBit, State.ringBit, if_neg (by omega), if_neg (by omega)] at bit

/-- `n` ROLs of A move the nine bits by `n` places, and write A, C, Z and N at most. -/
theorem runInstrs_replicate_rol (n : Nat) (s : State) :
    ∃ t, runInstrs (List.replicate n (.rol .acc)) s = .next t ∧
      (∀ k, k < 9 → t.ringBit k = s.ringBit ((k + 8 * n) % 9)) ∧ t.pc = s.pc ∧ Frame [.a] [.c, .z, .n] [] s t := by
  induction n generalizing s with
  | zero =>
    refine ⟨s, rfl, fun k hk => ?_, rfl,
      (Frame.refl s).mono (List.nil_subset _) (List.nil_subset _) (List.nil_subset _)⟩
    rw [Nat.mul_zero, Nat.add_zero, Nat.mod_eq_of_lt hk]
  | succ n ih =>
    obtain ⟨t, ht, hring, hpc, hframe⟩ := ih s.rolA
    refine ⟨t, ht, fun k hk => ?_, hpc,
      ((s.putShifted_acc_frame _ _).trans hframe).mono (by decide) (by decide) (by simp)⟩
    rw [hring k hk, State.ringBit_rolA s (Nat.mod_lt _ (by omega))]
    congr 1
    omega

/-- Settles O31: nine places round a ring of nine bits are none. -/
theorem nineRotatesRestore : Obligations.NineRotatesRestore := by
  intro s
  obtain ⟨t, ht, hring, hpc, hframe⟩ := runInstrs_replicate_rol 9 s
  have restored : ∀ k, k < 9 → t.ringBit k = s.ringBit k := by
    intro k hk
    rw [hring k hk]
    congr 1
    omega
  have ha : t.a = s.a := State.a_eq_of_ringBit restored
  have hc : t.flag .c = s.flag .c := restored 8 (by omega)
  exact ⟨t, ht, ha, hc, hpc, (hframe.drop_reg ha).drop_flag hc⟩

/-! ### Memory bytes and flags -/

theorem State.storeZN_read (s : State) (addr : Word) (v : Byte) : (s.storeZN addr v).read addr = v := by
  simp [State.storeZN]

/-- An instruction that ends as INC and DEC do, with a byte `k` above the old one, has their shape. -/
theorem addsToMemory_of_exec {i : MemOperand → Instr} {k : Nat} {f : Byte → Byte}
    (hf : ∀ v, (f v).toNat = (v.toNat + k) % 256)
    (h : ∀ m s, exec (i m) s = .next (s.storeZN (s.effAddr m) (f (s.read (s.effAddr m))))) : AddsToMemory i k := by
  intro m s
  have stored := s.storeZN_read (s.effAddr m) (f (s.read (s.effAddr m)))
  refine ⟨_, h m s, ?_, ?_, rfl, s.storeZN_frame _ _⟩
  · rw [stored, hf]
  · rw [stored]
    exact State.setZN_ZNOf _ _

/-- Settles O33: adding one and subtracting one. -/
theorem incDecMemoryByte : Obligations.IncDecMemoryByte :=
  ⟨addsToMemory_of_exec toNat_add_one exec_inc, addsToMemory_of_exec toNat_sub_one exec_dec⟩

/-- A write of a register at the effective address has the shape of STA, STX and STY. -/
theorem storesReg_of_exec {i : MemOperand → Instr} {r : Reg}
    (h : ∀ m s, exec (i m) s = .next (s.write (s.effAddr m) (s.reg r))) : StoresReg i r := by
  intro m s
  exact ⟨_, h m s, by simp, rfl, s.write_frame _ _⟩

/-- Settles O48: the three are writes of A, X and Y. -/
theorem storesWriteOneByte : Obligations.StoresWriteOneByte :=
  ⟨storesReg_of_exec exec_sta, storesReg_of_exec exec_stx, storesReg_of_exec exec_sty⟩

/-- A write of one flag has the shape of the flag instructions. -/
theorem writesFlag_of_exec {i : Instr} {f : Flag} {b : Bool} (h : ∀ s, exec i s = .next (s.setFlag f b)) :
    WritesFlag i f b := by
  intro s
  exact ⟨_, h s, by simp, rfl, s.setFlag_frame f b⟩

/-- Settles O46: the seven are writes of one flag. -/
theorem flagInstrsWriteOneBit : Obligations.FlagInstrsWriteOneBit :=
  ⟨writesFlag_of_exec exec_sec, writesFlag_of_exec exec_clc, writesFlag_of_exec exec_sei, writesFlag_of_exec exec_cli,
    writesFlag_of_exec exec_sed, writesFlag_of_exec exec_cld, writesFlag_of_exec exec_clv⟩

/-! ### Effective addresses -/

theorem zext16_eq_ofNat (b : Byte) : zext16 b = BitVec.ofNat 16 b.toNat := by
  apply BitVec.eq_of_toNat_eq
  have := b.isLt
  rw [toNat_zext16, BitVec.toNat_ofNat]
  omega

/-- Settles O49: byte sums wrap modulo 256 before they are widened, word sums modulo 65536; both pointer modes read the
pointer by one rule. -/
theorem effectiveAddresses : Obligations.EffectiveAddresses := by
  intro s z a byte
  have pointer (b : Byte) : (s.zeroPagePointer b).toNat = byte ((b.toNat + 1) % 256) * 256 + byte b.toNat := by
    rw [State.zeroPagePointer, toNat_joinBytes, zext16_eq_ofNat, zext16_eq_ofNat, toNat_add_one]
  refine ⟨toNat_zext16 z, ?_, ?_, rfl, ?_, ?_, ?_, ?_⟩
  · rw [State.effAddr_zpX, toNat_zext16, BitVec.toNat_add]
  · rw [State.effAddr_zpY, toNat_zext16, BitVec.toNat_add]
  · rw [State.effAddr_absX, BitVec.toNat_add, toNat_zext16]
  · rw [State.effAddr_absY, BitVec.toNat_add, toNat_zext16]
  · rw [State.effAddr_indX, pointer, BitVec.toNat_add, Nat.mod_add_mod]
  · rw [State.effAddr_indY, BitVec.toNat_add, pointer, toNat_zext16]

end Sys2Proof.Machine

namespace Sys2Proof.Machine

/-! ### Branches and jumps -/

/-- A branch target in the integers (30_encoding.md R48). -/
theorem toNat_add_sext16 (w : Word) (off : Byte) :
    ((w + sext16 off).toNat : Int) = ((w.toNat : Int) + off.toInt) % 65536 := by
  rw [← toInt_sext16, BitVec.toInt_eq_toNat_cond, BitVec.toNat_add]
  split <;> omega

/-- Where a branch leaves PC (45_branches.md R110). -/
theorem State.branch_pc (s : State) (cond : Bool) (off : Byte) :
    (s.branch cond off).pc = if cond then s.pc + sext16 off else s.pc := by
  rw [State.branch_eq]
  rfl

/-- A branch whose condition holds for one value of one flag has the shape of the eight branches. -/
theorem branchesOn_of_exec (c : Bool → Bool) {i : Byte → Instr} {f : Flag} {b : Bool} (hc : ∀ x, c x = true ↔ x = b)
    (h : ∀ off s, exec (i off) s = .next (s.branch (c (s.flag f)) off)) : BranchesOn i f b := by
  intro off s
  refine ⟨_, h off s, fun taken => ?_, fun passed => ?_, s.branch_frame _ off⟩
  · rw [State.branch_pc, if_pos ((hc _).mpr taken), toNat_add_sext16]
  · rw [State.branch_pc, if_neg (mt (hc _).mp passed)]

/-- Settles O35: the condition of each branch is its flag or the flag's negation. -/
theorem branchesTakenExactlyOnFlag : Obligations.BranchesTakenExactlyOnFlag :=
  ⟨branchesOn_of_exec not (by decide) exec_bcc, branchesOn_of_exec id (by decide) exec_bcs,
    branchesOn_of_exec id (by decide) exec_beq, branchesOn_of_exec not (by decide) exec_bne,
    branchesOn_of_exec id (by decide) exec_bmi, branchesOn_of_exec not (by decide) exec_bpl,
    branchesOn_of_exec not (by decide) exec_bvc, branchesOn_of_exec id (by decide) exec_bvs⟩

/-- A word within the range of a signed byte is the sign extension of its low byte. -/
theorem sext16_setWidth {w : Word} (hlow : -128 ≤ w.toInt) (hhigh : w.toInt ≤ 127) : sext16 (w.setWidth 8) = w := by
  apply BitVec.eq_of_toInt_eq
  have := w.isLt
  rw [BitVec.toInt_eq_toNat_cond] at hlow hhigh
  rw [toInt_sext16, BitVec.toInt_eq_toNat_cond, BitVec.toInt_eq_toNat_cond, BitVec.toNat_setWidth]
  split <;> split <;> omega

/-- Settles O36: within the range the offset byte extends to the distance from the next instruction. -/
theorem assembledBranchReachesLabel : Obligations.AssembledBranchReachesLabel := by
  intro addr label s hlow hhigh hpc hz
  refine ⟨_, exec_bne _ s, ?_⟩
  rw [State.branch_pc, hz, Bool.not_false, if_pos rfl, branchOffset, sext16_setWidth hlow hhigh, hpc]
  bv_omega

/-- The address after a pointer in its page: the page of the pointer, the low byte of the next address (30_encoding.md
R47). The two masks choose the bits of either half. -/
theorem nextInPage_eq_joinBytes (p : Word) : nextInPage p = joinBytes (hiByte p) (loByte (p + 1)) := by
  have highMask : ∀ k, k < 16 → (0xFF00 : Word).getLsbD k = decide (8 ≤ k) := by decide
  have lowMask : ∀ k, k < 16 → (0x00FF : Word).getLsbD k = decide (k < 8) := by decide
  apply BitVec.eq_of_getLsbD_eq
  intro k hk
  have high := highMask k hk
  have low := lowMask k hk
  rw [nextInPage, BitVec.getLsbD_or, BitVec.getLsbD_and, BitVec.getLsbD_and, high, low, joinBytes,
    BitVec.getLsbD_append]
  by_cases h : k < 8
  · simp [h, loByte]
  · have above : 8 ≤ k := Nat.not_lt.mp h
    have inHigh : k - 8 < 8 := by omega
    have position : 8 + (k - 8) = k := by omega
    simp [hiByte, h, above, inHigh, position]

theorem toNat_nextInPage (p : Word) : (nextInPage p).toNat = p.toNat / 256 * 256 + (p.toNat + 1) % 256 := by
  rw [nextInPage_eq_joinBytes, toNat_joinBytes, toNat_hiByte, toNat_loByte, BitVec.toNat_add]
  congr 1
  exact Nat.mod_mod_of_dvd _ (by decide)

/-- Settles O37: the high byte of an indirect target is read at `nextInPage`. -/
theorem jmpGoesToTarget : Obligations.JmpGoesToTarget := by
  refine ⟨fun a s => ⟨_, exec_jmp (.abs a) s, rfl, s.setPC_frame a⟩,
    fun ptr s => ⟨_, exec_jmp (.ind ptr) s, ?_, s.setPC_frame _⟩⟩
  rw [← toNat_nextInPage, BitVec.ofNat_toNat, BitVec.setWidth_eq]
  exact toNat_joinBytes _ _

/-! ### Calls and returns -/

theorem returnAddress_eq (p : Params) (pc : Word) : returnAddress p pc = if p.retConv = .nmos then pc - 1 else pc := by
  unfold returnAddress
  cases p.retConv <;> rfl

/-- Where RTS resumes, in the naturals (46_jumps_calls.md R121). -/
theorem toNat_resumeAddress (p : Params) (w : Word) :
    (resumeAddress p w).toNat = (w.toNat + if p.retConv = .nmos then 1 else 0) % 65536 := by
  have := w.isLt
  unfold resumeAddress
  cases p.retConv
  · exact BitVec.toNat_add w 1
  · simp only [reduceCtorEq, if_false]
    omega

/-- Under either convention RTS undoes what JSR does to the address (46_jumps_calls.md R121, R124). -/
theorem resumeAddress_returnAddress (p : Params) (w : Word) : resumeAddress p (returnAddress p w) = w := by
  unfold resumeAddress returnAddress
  cases p.retConv
  · exact BitVec.sub_add_cancel w 1
  · rfl

/-- JSR under given parameters (46_jumps_calls.md R122). -/
theorem State.call_called (p : Params) (target : Word) (s : State) : Called p target s (s.call p target) := by
  have slots (addr : Word) : (s.call p target).read addr = (s.push16 (returnAddress p s.pc)).read addr := rfl
  have spDown : s.sp - 1 - 1 = s.sp - 2 := pred_pred s.sp
  refine ⟨rfl, spDown, ?_, ?_, s.call_frame p target⟩
  · rw [slots, State.push16_read, if_neg (by simp), if_pos rfl, toNat_hiByte, returnAddress_eq]
  · rw [slots, State.push16_read, if_pos rfl, toNat_loByte, returnAddress_eq]

/-- Settles O38: `exec` and `execWith` run the same call. -/
theorem jsrPushesReturnAddress : Obligations.JsrPushesReturnAddress :=
  fun target s => ⟨⟨_, exec_jsr target s, s.call_called params target⟩, fun p => ⟨_, rfl, s.call_called p target⟩⟩

theorem succ_succ (b : Byte) : b + 1 + 1 = b + 2 := by bv_omega

/-- The 16-bit value above SP (20_memory.md R38). -/
theorem State.pulled16_eq (s : State) :
    s.pulled16 = joinBytes (s.read (stackSlot (s.sp + 2))) (s.read (stackSlot (s.sp + 1))) := by
  rw [← succ_succ]
  rfl

/-- RTS under given parameters (46_jumps_calls.md R123). -/
theorem State.returnFromCall_returned (p : Params) (s : State) : Returned p s (s.returnFromCall p) := by
  refine ⟨?_, succ_succ s.sp, s.returnFromCall_frame p⟩
  rw [State.returnFromCall, State.setPC_pc, toNat_resumeAddress, State.pulled16_eq, toNat_joinBytes]

/-- Settles O39: `exec` and `execWith` run the same return. -/
theorem rtsPullsReturnAddress : Obligations.RtsPullsReturnAddress :=
  fun s => ⟨⟨_, exec_rts s, s.returnFromCall_returned params⟩, fun p => ⟨_, rfl, s.returnFromCall_returned p⟩⟩

/-- Two pulls depend on SP and the two bytes above it only. -/
theorem State.pulled16_congr {s t : State} (hsp : t.sp = s.sp)
    (hread : ∀ addr, addr ∈ [stackSlot (s.sp + 2), stackSlot (s.sp + 1)] → t.read addr = s.read addr) :
    t.pulled16 = s.pulled16 := by
  rw [State.pulled16_eq, State.pulled16_eq, hsp, hread _ (by simp), hread _ (by simp)]

/-- Settles O40: RTS pulls the value JSR pushed, and the convention undoes itself. -/
theorem callThenReturnComesBack : Obligations.CallThenReturnComesBack := by
  intro p target s t t' h hsp hmem
  cases h
  have top : s.sp - 1 - 1 + 2 = s.sp := by bv_omega
  have next : s.sp - 1 - 1 + 1 = s.sp - 1 := by bv_omega
  have pulled : t'.pulled16 = (s.push16 (returnAddress p s.pc)).pulled16 := by
    refine State.pulled16_congr hsp ?_
    rw [State.push16_sp, top, next]
    exact hmem
  rw [State.push16_pulled16] at pulled
  refine ⟨_, rfl, ?_, ?_, t'.returnFromCall_frame p⟩
  · exact (congrArg (resumeAddress p) pulled).trans (resumeAddress_returnAddress p s.pc)
  · exact (succ_succ t'.sp).trans (hsp ▸ top)

end Sys2Proof.Machine

namespace Sys2Proof.Machine

/-! ### The stack -/

/-- A push has the shape of PHA and PHP. -/
theorem pushesByte_of_exec {i : Instr} {v : State → Byte} (h : ∀ s, exec i s = .next (s.push (v s))) :
    PushesByte i v := by
  intro s
  exact ⟨_, h s, toNat_stackSlot s.sp, by simp, toNat_sub_one s.sp, rfl, s.push_frame _⟩

/-- Settles O43: PHA pushes A, PHP the copy of P with B and U set. -/
theorem phaPhpPushOneByte : Obligations.PhaPhpPushOneByte :=
  ⟨pushesByte_of_exec exec_pha, pushesByte_of_exec exec_php⟩

/-- Settles O44: both pull the byte above SP, into A with Z and N, or into P. -/
theorem plaPlpPullOneByte : Obligations.PlaPlpPullOneByte := by
  refine ⟨fun s => ⟨_, exec_pla s, rfl, State.setZN_ZNOf _ _, toNat_add_one s.sp, rfl, ?_⟩,
    fun s => ⟨_, exec_plp s, rfl, toNat_add_one s.sp, rfl, s.afterPull_frame.trans (State.setP_frame _ _)⟩⟩
  exact (s.afterPull_frame.trans (State.loadA_frame _ _)).mono (by decide) (List.Subset.refl _) (List.Subset.refl _)

/-- Settles O45: the load writes neither SP nor the slot pushed to, so PLA pulls the byte PHA pushed. -/
theorem phaThenPlaRestoresA : Obligations.PhaThenPlaRestoresA := by
  intro o s
  have pulled : ((s.push s.a).loadA ((s.push s.a).operand o)).pulled = s.a := s.push_pulled s.a
  have hsp : s.sp - 1 + 1 = s.sp := BitVec.sub_add_cancel s.sp 1
  have frame := ((s.push_frame s.a).trans (State.loadA_frame _ ((s.push s.a).operand o))).trans
    ((State.afterPull_frame _).trans (State.loadA_frame _ s.a))
  refine ⟨_, rfl, pulled, ?_, hsp, rfl, ?_⟩
  · rw [pulled]
    exact State.setZN_ZNOf _ s.a
  · rw [pulled]
    have all : Frame [.a, .sp] [.z, .n] [stackSlot s.sp] s _ := frame.mono (by decide) (by decide) (List.Subset.refl _)
    exact (all.drop_reg rfl).drop_reg hsp

/-! ### Return from interrupt -/

/-- RTI's PC: the two bytes above the status copy, nothing added (46_jumps_calls.md R125). -/
theorem State.returnFromInterrupt_pc (s : State) :
    s.returnFromInterrupt.pc = joinBytes (s.read (stackSlot (s.sp + 3))) (s.read (stackSlot (s.sp + 2))) := by
  have high : s.sp + 1 + 2 = s.sp + 3 := by bv_omega
  have low : s.sp + 1 + 1 = s.sp + 2 := succ_succ s.sp
  have pulled := (s.afterPull.setP s.pulled).pulled16_eq
  rw [State.setP_sp, State.afterPull_sp, high, low] at pulled
  exact pulled

theorem State.returnFromInterrupt_sp (s : State) : s.returnFromInterrupt.sp = s.sp + 3 := by
  show s.sp + 1 + 1 + 1 = s.sp + 3
  bv_omega

/-- Settles O41: PC in the naturals is the two bytes joined. -/
theorem rtiRestoresStatusAndPc : Obligations.RtiRestoresStatusAndPc := by
  intro s
  refine ⟨_, exec_rti s, rfl, ?_, s.returnFromInterrupt_sp, s.returnFromInterrupt_frame⟩
  rw [State.returnFromInterrupt_pc, toNat_joinBytes]

/-! ### Interrupt entry -/

/-- An address above the stack page is no stack slot, whatever SP is (20_memory.md R37). -/
theorem stackSlot_ne {addr : Word} (h : 0x0200 ≤ addr.toNat) (sp : Byte) : addr ≠ stackSlot sp := by
  rintro rfl
  have := sp.isLt
  rw [toNat_stackSlot] at h
  omega

theorem ne_sub_two (b : Byte) : b ≠ b - 2#8 := by bv_omega

/-- Memory after an entry: the three slots pushed to, everything else as before (60_exceptions.md R203). -/
theorem State.enter_read (p : Params) (vector : Word) (status : Byte) (s : State) (addr : Word) :
    (s.enter p vector status).read addr =
      if addr = stackSlot (s.sp - 2) then status else
        if addr = stackSlot (s.sp - 1) then loByte s.pc else
          if addr = stackSlot s.sp then hiByte s.pc else s.read addr := by
  obtain ⟨-, -, -, -, -, -, hread, -⟩ := State.enter_spec p vector status s
  rw [hread, State.push_read, State.push16_read, State.push16_sp, pred_pred]

/-- Entry with a return address `ret`, through a vector outside the stack page, which the pushes therefore leave as it
was (60_exceptions.md R203 to R206). -/
theorem State.enter_entered (p : Params) {vector : Word} (hlow : 0x0200 ≤ vector.toNat)
    (hhigh : 0x0200 ≤ (vector + 1).toNat) (ret : Word) (status : Byte) (s : State) :
    Entered p vector ret status s ((s.setPC ret).enter p vector status) := by
  obtain ⟨-, -, -, hsp, -, hflag, hread, hpc⟩ := State.enter_spec p vector status (s.setPC ret)
  have outside {addr : Word} (h : 0x0200 ≤ addr.toNat) :
      ((s.setPC ret).enter p vector status).read addr = s.read addr := by
    rw [State.enter_read, if_neg (stackSlot_ne h _), if_neg (stackSlot_ne h _), if_neg (stackSlot_ne h _),
      State.setPC_read]
  have down : s.sp - 1 - 1 - 1 = s.sp - 3 := by bv_omega
  exact {
    sp := hsp.trans down
    retHigh := by simp [State.enter_read, ne_sub_two]
    retLow := by simp [State.enter_read]
    status := by simp [State.enter_read]
    mask := by rw [hflag]; cases p.intSetsI <;> simp
    target := by rw [hpc, State.read16, toNat_joinBytes, ← hread, ← hread, outside hhigh, outside hlow]
    frame := (s.setPC_frame ret).trans (State.enter_frame p vector status (s.setPC ret)) }

/-- BRK is an entry (49_moves_control.md R162). -/
theorem State.break_entered (p : Params) (s : State) :
    Entered p 0xFFFE (breakReturn p s.pc) (s.p ||| 0x30) s (s.break p) := by
  rw [State.break_eq]
  exact s.enter_entered p (by decide) (by decide) _ _

/-- `nmi()` is an entry (60_exceptions.md R205). -/
theorem State.nmi_entered (p : Params) (s : State) : Entered p 0xFFFA s.pc ((s.p &&& 0xEF) ||| 0x20) s (s.nmi p) :=
  s.enter_entered p (by decide) (by decide) s.pc _

/-- With I set `irq()` does nothing (60_exceptions.md R204). -/
theorem State.irq_masked {p : Params} {s : State} (h : s.flag .i = true) : s.irq p = s := if_pos h

/-- With I clear `irq()` is an entry (60_exceptions.md R204). -/
theorem State.irq_entered (p : Params) {s : State} (h : s.flag .i = false) :
    Entered p 0xFFFE s.pc ((s.p &&& 0xEF) ||| 0x20) s (s.irq p) := by
  rw [State.irq, h]
  exact s.enter_entered p (by decide) (by decide) s.pc _

/-- Settles O51: `exec` and `execWith` run the same entry. -/
theorem brkEntersHandler : Obligations.BrkEntersHandler :=
  fun s => ⟨⟨_, exec_brk s, s.break_entered params⟩, fun p => ⟨_, rfl, s.break_entered p⟩⟩

/-- Settles O53: the two cases of I. -/
theorem irqTakenExactlyWhenEnabled : Obligations.IrqTakenExactlyWhenEnabled :=
  fun p _ => ⟨State.irq_masked, State.irq_entered p⟩

/-- Settles O54: `nmi()` does not look at I. -/
theorem nmiAlwaysTaken : Obligations.NmiAlwaysTaken := State.nmi_entered

/-- Settles O55: the first entry sets I, which masks the `irq()`; the other way round the second entry starts from the
state the first one leaves. -/
theorem interruptOrder : Obligations.InterruptOrder := by
  intro p s hp
  constructor
  · apply State.irq_masked
    rw [(s.nmi_entered p).mask, hp, Bool.true_or]
  · intro hi
    have first := s.irq_entered p hi
    have second := (s.irq p).nmi_entered p
    have down : s.sp - 3 - 3 = s.sp - 6 := by bv_omega
    have next : s.sp - 3 - 1 = s.sp - 4 := by bv_omega
    have high := second.retHigh
    have low := second.retLow
    rw [first.sp] at high low
    rw [next] at low
    rw [second.sp, first.sp, high, low]
    exact ⟨down, Nat.div_add_mod' _ _⟩

/-- RTI after any of the three entries: the three bytes it pulls are the ones the entry pushed (60_exceptions.md R209).
-/
theorem Entered.rti_resumes {p : Params} {vector ret : Word} {status : Byte} {s t t' : State}
    (h : Entered p vector ret status s t) (hsp : t'.sp = t.sp)
    (hmem : ∀ addr, addr ∈ [stackSlot s.sp, stackSlot (s.sp - 1), stackSlot (s.sp - 2)] → t'.read addr = t.read addr) :
    t'.returnFromInterrupt.pc = ret ∧ t'.returnFromInterrupt.sp = s.sp ∧ t'.returnFromInterrupt.p = status := by
  have sp3 : t'.sp + 3 = s.sp := by rw [hsp, h.sp]; bv_omega
  have sp2 : t'.sp + 2 = s.sp - 1 := by rw [hsp, h.sp]; bv_omega
  have sp1 : t'.sp + 1 = s.sp - 2 := by rw [hsp, h.sp]; bv_omega
  refine ⟨?_, ?_, ?_⟩
  · apply BitVec.eq_of_toNat_eq
    rw [State.returnFromInterrupt_pc, sp3, sp2, toNat_joinBytes, hmem _ (by simp), hmem _ (by simp), h.retHigh,
      h.retLow, Nat.div_add_mod']
  · rw [State.returnFromInterrupt_sp, sp3]
  · calc t'.returnFromInterrupt.p = t'.read (stackSlot (t'.sp + 1)) := rfl
      _ = status := by rw [sp1, hmem _ (by simp), h.status]

/-- Settles O42: `nmi()`, a taken `irq()` and BRK are entries with that return address and status. -/
theorem rtiResumesAfterEntry : Obligations.RtiResumesAfterEntry := by
  intro p s t t' ret status h hsp hmem
  have entered : ∃ vector, Entered p vector ret status s t := by
    rcases h with ⟨rfl, rfl, rfl⟩ | ⟨hi, rfl, rfl, rfl⟩ | ⟨hbrk, rfl, rfl⟩
    · exact ⟨_, s.nmi_entered p⟩
    · exact ⟨_, s.irq_entered p hi⟩
    · cases hbrk
      exact ⟨_, s.break_entered p⟩
  obtain ⟨vector, entered⟩ := entered
  obtain ⟨hpc, hsp', hp⟩ := entered.rti_resumes hsp hmem
  exact ⟨_, exec_rti t', hpc, hsp', hp, t'.returnFromInterrupt_frame⟩

/-- Settles O56: the registers and flags are zeroed fields, PC the two bytes at the vector joined. -/
theorem resetOperationZeroesRegisters : Obligations.ResetOperationZeroesRegisters := by
  intro s
  have registers : ∀ r, s.hostReset.reg r = 0x00 := by
    intro r
    cases r <;> rfl
  exact ⟨registers, getFlag_zero, rfl, toNat_joinBytes _ _, rfl⟩

end Sys2Proof.Machine
